-- ==== Sys2Proof/Word.lean ====
section
/-! DEFINITION. The words of the block, one name per width (spec/00_scope.md R4, R6; 30_encoding.md R32, R34;
10_state.md R11). Bit 0 is the least significant bit of every word, and every quantity is unsigned (R6). -/

namespace Sys2Proof

/-- The raw status byte of the flash chip, `STATUS_W` = 8 bits (R4). -/
abbrev Status := BitVec 8

/-- A region index, `IDX_W` = 22 bits, unsigned (R4). -/
abbrev Index := BitVec 22

/-- A byte offset into the spare area, or its size, `OOB_W` = 16 bits (R4, R17). -/
abbrev Offset := BitVec 16

/-- A request word, `REQ_W` = 24 bits (R4, R32). -/
abbrev Req := BitVec 24

/-- A response word, `RSP_W` = 36 bits (R4, R34). -/
abbrev Rsp := BitVec 36

/-- The configuration register `CFG`, 20 bits (R11). -/
abbrev Cfg := BitVec 20

end Sys2Proof
end

