-- ==== Sys2Proof/Syntax.lean ====
section
/-! DEFINITION. What the host can ask of the block: the twelve rows of spec/opcode_table.json as `Instr`, the four
operations of a request word as `Request`, the host's events, and the lines of the assembler (spec/30_encoding.md
R32, R33, R37, R38). -/

namespace Sys2Proof

/-- The field `ECCV` of an operand or of `CFG`: 0 = Variant A, 1 = Variant B (R11, R33). -/
inductive EccVariant where
  | a
  | b
  deriving DecidableEq, Repr

/-- The field `LAYOUT`: 0 = L4, 1 = L1F, 2 = LP, 3 = reserved, spelt `L3` by the assembler (R11, R33, R38). -/
inductive LayoutCode where
  | l4
  | l1f
  | lp
  | l3
  deriving DecidableEq, Repr

/-- The four operations, each with its operand, as the request word alone gives them (R32, R39). -/
inductive Request where
  /-- `OP = 0`, format S: classify a status byte. -/
  | dec (status : Status)
  /-- `OP = 1`, format X: the ECC range of a region. -/
  | eccr (index : Index)
  /-- `OP = 2`, format X: the free range of a region. -/
  | freer (index : Index)
  /-- `OP = 3`, format C: load the configuration. -/
  | ldcfg (variant : EccVariant) (layout : LayoutCode) (size : Offset)
  deriving DecidableEq, Repr

/-- One constructor per row of spec/opcode_table.json: a pair of operation and mode (R37). The mode is not in the
request word; `CFG` selects the row of an operation (R39). -/
inductive Instr where
  /-- `DEC.A` (R41). -/
  | decA (status : Status)
  /-- `DEC.B` (R42). -/
  | decB (status : Status)
  /-- `DEC.U` (R43). -/
  | decU (status : Status)
  /-- `ECCR.L4` (R51). -/
  | eccrL4 (index : Index)
  /-- `ECCR.L1F` (R53). -/
  | eccrL1F (index : Index)
  /-- `ECCR.LP` (R55). -/
  | eccrLP (index : Index)
  /-- `ECCR.Z` (R57). -/
  | eccrZ (index : Index)
  /-- `FREER.L4` (R52). -/
  | freerL4 (index : Index)
  /-- `FREER.L1F` (R54). -/
  | freerL1F (index : Index)
  /-- `FREER.LP` (R56). -/
  | freerLP (index : Index)
  /-- `FREER.Z` (R57). -/
  | freerZ (index : Index)
  /-- `LDCFG` (R65). -/
  | ldcfg (variant : EccVariant) (layout : LayoutCode) (size : Offset)
  deriving DecidableEq, Repr

/-- What the host can do to the block: issue a request word, or apply `RESET`, which is an event and no request word
(00_scope.md R3, 70_reset_and_hazards.md R80). -/
inductive HostEvent where
  | request (word : Req)
  | reset
  deriving DecidableEq, Repr

/-- One line of the assembler, its numbers as written (R38); `AsmLine.wellFormed` checks their ranges. -/
inductive AsmLine where
  | dec (status : Nat)
  | eccr (index : Nat)
  | freer (index : Nat)
  | ldcfg (variant : EccVariant) (layout : LayoutCode) (size : Nat)
  | reset
  deriving DecidableEq, Repr

end Sys2Proof
end

