-- ==== Sys2Proof/Machine/Operands.lean ====
section
/-! DEFINITION. The operand forms of a request word and the coding of their two enumerated fields (spec/30_encoding.md R33
and its section 2). Every operand is taken from the word as it stands: nothing is extended, scaled or assembled. -/

namespace Sys2Proof.Machine

/-- `OP = REQ[23:22]` (R32). -/
def reqOp (w : Req) : BitVec 2 := w.extractLsb' 22 2

/-- Format S: `STATUS = REQ[7:0]`; `REQ[21:8]` is not looked at (R33, R36). -/
def reqStatus (w : Req) : Status := w.extractLsb' 0 8

/-- Format X: `INDEX = REQ[21:0]` (R33). -/
def reqIndex (w : Req) : Index := w.extractLsb' 0 22

/-- Format C: `ECCV = REQ[18]`; `REQ[21:19]` is not looked at (R33, R36). -/
def reqEccv (w : Req) : BitVec 1 := w.extractLsb' 18 1

/-- Format C: `LAYOUT = REQ[17:16]` (R33). -/
def reqLayout (w : Req) : BitVec 2 := w.extractLsb' 16 2

/-- Format C: `OOBSZ = REQ[15:0]` (R33). -/
def reqOobsz (w : Req) : Offset := w.extractLsb' 0 16

/-- The code of a decoder variant: 0 = A, 1 = B (R33). -/
def variantBits : EccVariant → BitVec 1
  | .a => 0#1
  | .b => 1#1

/-- The variant a code names (R33). -/
def variantOfBits (v : BitVec 1) : EccVariant := if v = 0#1 then .a else .b

/-- The code of a layout: 0 = L4, 1 = L1F, 2 = LP, 3 = reserved (R33). -/
def layoutBits : LayoutCode → BitVec 2
  | .l4 => 0#2
  | .l1f => 1#2
  | .lp => 2#2
  | .l3 => 3#2

/-- The layout a code names (R33). -/
def layoutOfBits (v : BitVec 2) : LayoutCode :=
  if v = 0#2 then .l4 else if v = 1#2 then .l1f else if v = 2#2 then .lp else .l3

end Sys2Proof.Machine
end

