-- ==== Sys2Proof/Machine/Response.lean ====
section
/-! DEFINITION. The results of the operations and their result codes (spec/00_scope.md R7, R8; 30_encoding.md R34, R35). -/

namespace Sys2Proof.Machine

/-- The bands a flash chip reports: 1 to 3, 4 to 6, 7 to 8 corrected bits (40_ecc_decode.md R44). -/
inductive Band where
  | upTo3
  | upTo6
  | upTo8
  deriving DecidableEq, Repr

/-- The top of a band, the only count the decoder ever reports (R44). -/
def bandTop : Band → Offset
  | .upTo3 => 3#16
  | .upTo6 => 6#16
  | .upTo8 => 8#16

/-- `EccResult` (R8). -/
inductive EccResult where
  | clean
  | corrected (band : Band)
  | uncorrectable
  | unrecognized
  deriving DecidableEq, Repr

/-- A range `[start, stop)` of byte offsets, `stop` exclusive (R7). -/
structure Range where
  start : Offset
  stop : Offset
  deriving DecidableEq, Repr

/-- The one error of the mapper (R8, 60_exceptions.md R70). -/
inductive RangeError where
  | outOfRange
  deriving DecidableEq, Repr

/-- `RangeResult` (R8). An error holds no range (41_oob_map.md R58). -/
inductive RangeResult where
  | ok (range : Range)
  | error (reason : RangeError)
  deriving DecidableEq, Repr

/-- The two outcomes of `LDCFG` (42_config.md R65, R66). -/
inductive CfgResult where
  | accepted
  | ignored
  deriving DecidableEq, Repr

/-- What an operation answers: each operation ends with exactly one of these (R34). -/
inductive Response where
  | ecc (result : EccResult)
  | range (result : RangeResult)
  | cfg (result : CfgResult)
  deriving DecidableEq, Repr

/-- The result code `RC` of a response (R35). -/
def resultCode : Response → BitVec 3
  | .ecc .clean => 0#3
  | .ecc (.corrected _) => 1#3
  | .ecc .uncorrectable => 2#3
  | .ecc .unrecognized => 3#3
  | .range (.ok _) => 4#3
  | .range (.error .outOfRange) => 5#3
  | .cfg .accepted => 6#3
  | .cfg .ignored => 7#3

/-- The payload `A`: the start of a range, else 0 (R34, R35). -/
def payloadA : Response → Offset
  | .range (.ok r) => r.start
  | _ => 0#16

/-- The payload `B`: the exclusive end of a range, the corrected-bit count, else 0 (R34, R35). -/
def payloadB : Response → Offset
  | .range (.ok r) => r.stop
  | .ecc (.corrected band) => bandTop band
  | _ => 0#16

/-- A response word from its four fields, `RC` highest (R34): the `respond(RC, UNC, A, B)` of the rules' pseudocode. -/
def packResponse (rc : BitVec 3) (unc : BitVec 1) (a b : Offset) : Rsp := rc ++ unc ++ a ++ b

/-- The field `RC` of a response word, bits [35:33] (R34). -/
def rspRc (w : Rsp) : BitVec 3 := w.extractLsb' 33 3

/-- The field `UNC`, bit [32] (R34). -/
def rspUnc (w : Rsp) : BitVec 1 := w.extractLsb' 32 1

/-- The field `A`, bits [31:16] (R34). -/
def rspA (w : Rsp) : Offset := w.extractLsb' 16 16

/-- The field `B`, bits [15:0] (R34). -/
def rspB (w : Rsp) : Offset := w.extractLsb' 0 16

end Sys2Proof.Machine
end

