-- ==== Sys2Proof/Machine/Flags.lean ====
section
/-! DEFINITION. The only flag of the block: `UNC`, an output of one response and no state (spec/10_state.md R15,
30_encoding.md R34, 40_ecc_decode.md R46), the response word it completes, and the host's reading of a response word. -/

namespace Sys2Proof.Machine

/-- "Treat as uncorrectable": set for `Uncorrectable` and `Unrecognized`, clear in every other response (R34, R46). -/
def uncFlag : Response → BitVec 1
  | .ecc .uncorrectable => 1#1
  | .ecc .unrecognized => 1#1
  | _ => 0#1

/-- The response word of a result (R34, R35). -/
def responseWord (r : Response) : Rsp := packResponse (resultCode r) (uncFlag r) (payloadA r) (payloadB r)

/-- The result a response code names, its payloads as they stand; whether the word is one the block can produce is asked
in `readResponse`. -/
def resultOfFields (rc : BitVec 3) (a b : Offset) : Response :=
  if rc = 0#3 then .ecc .clean
  else if rc = 1#3 then
    .ecc (.corrected (if b = 3#16 then .upTo3 else if b = 6#16 then .upTo6 else .upTo8))
  else if rc = 2#3 then .ecc .uncorrectable
  else if rc = 3#3 then .ecc .unrecognized
  else if rc = 4#3 then .range (.ok ⟨a, b⟩)
  else if rc = 5#3 then .range (.error .outOfRange)
  else if rc = 6#3 then .cfg .accepted
  else .cfg .ignored

/-- The host's reading of a response word: the result it is the word of, `none` for a word that is of no result (R35; the
words named at the end of section 2 of 95_test_vectors.md). -/
def readResponse (w : Rsp) : Option Response :=
  let r := resultOfFields (rspRc w) (rspA w) (rspB w)
  if responseWord r = w then some r else none

end Sys2Proof.Machine
end

