-- ==== Sys2Proof/Machine/State.lean ====
section
/-! DEFINITION. The state, the state right after reset, and the reasons a step can stop (spec/10_state.md R10, R11, R19). -/

namespace Sys2Proof.Machine

/-- The block and its channel. The state of the BLOCK is `cfg` and nothing else (R10). `pending` and `responses` are the
host's two ends of the request/response channel (00_scope.md R3; 70_reset_and_hazards.md R85): the step that the host's
interface asks for takes no argument but a state, so what the host is about to issue and what it has read stand beside
the block. Nothing the block computes depends on `responses`, and it sees of `pending` only the event it is given.
DESIGN CHOICE, safe: log 1. -/
structure State where
  /-- The configuration register (R11): the whole state of the block. -/
  cfg : Cfg
  /-- The host's finite sequence of events still to issue, the next one first (R3, R85). The model's own field. -/
  pending : List HostEvent
  /-- The response words produced so far, oldest first: what a run lets one observe (R85). The model's own field. -/
  responses : List Rsp
  deriving DecidableEq, Repr

/-- The reasons a step can fault: none. An error of the block is a result code of a response, never a trap
(60_exceptions.md R70, R74), and no request word is illegal (30_encoding.md R36). No meaning raises a fault. -/
inductive Fault where
  deriving DecidableEq, Repr

/-- The reasons a step can be refused. -/
inductive Refusal where
  /-- Raised by `exec` for an instruction without a meaning; no arm of `exec` raises it in this model. Safe: nothing is
  proved of an instruction that is refused. -/
  | notModelled (mnemonic : String)
  deriving DecidableEq, Repr

/-- Right after `RESET`: every bit of `CFG` is 0 (R19, R80). The host has issued nothing and read nothing (DESIGN CHOICE,
log 9). -/
def State.reset : State := { cfg := 0#20, pending := [], responses := [] }

end Sys2Proof.Machine
end

