-- ==== Sys2Proof/Machine/Views.lean ====
section
/-! DEFINITION. The fields of `CFG` and the functions of `CFG` the rules are written with (spec/10_state.md R11, R18).
Every read of `CFG` goes through here. -/

namespace Sys2Proof.Machine

/-- `CFG.VALID`, bit 19 (R11). -/
def cfgValid (c : Cfg) : Bool := c.getLsbD 19

/-- `CFG.ECCV`, bit 18 (R11). -/
def cfgEccv (c : Cfg) : BitVec 1 := c.extractLsb' 18 1

/-- `CFG.LAYOUT`, bits [17:16] (R11). -/
def cfgLayout (c : Cfg) : BitVec 2 := c.extractLsb' 16 2

/-- `CFG.OOBSZ`, bits [15:0] (R11). -/
def cfgOobsz (c : Cfg) : Offset := c.extractLsb' 0 16

/-- The value of `CFG` with the given fields, `VALID` in the highest bit (R11). -/
def cfgOfFields (valid : BitVec 1) (eccv : BitVec 1) (layout : BitVec 2) (oobsz : Offset) : Cfg :=
  valid ++ eccv ++ layout ++ oobsz

/-- Which decode table `DEC` uses: a variant's, or the empty table `U` before configuration (R18). -/
inductive Variant where
  | a
  | b
  | u
  deriving DecidableEq, Repr

/-- Which layout `ECCR` and `FREER` use; `z` has no regions (R18). -/
inductive Layout where
  | l4
  | l1f
  | lp
  | z
  deriving DecidableEq, Repr

/-- `variant(CFG)` (R18). -/
def variant (c : Cfg) : Variant :=
  if cfgValid c then (if cfgEccv c = 0#1 then .a else .b) else .u

/-- `layout(CFG)` (R18). -/
def layout (c : Cfg) : Layout :=
  if cfgValid c then
    (if cfgLayout c = 0#2 then .l4
     else if cfgLayout c = 1#2 then .l1f
     else if cfgLayout c = 2#2 then .lp
     else .z)
  else .z

/-- `count(layout)`, the number of valid region indices (R18). -/
def regionCount : Layout → Nat
  | .l4 => 4
  | .l1f => 1
  | .lp => 1
  | .z => 0

end Sys2Proof.Machine
end

