-- ==== Sys2Proof/Machine/Ops.lean ====
section
/-! DEFINITION. The operations every meaning is written with: answering with a response, the error result that takes the
place of a trap, reading and writing `CFG`, and reset (spec/00_scope.md section 6; 30_encoding.md R34; 42_config.md R65;
60_exceptions.md R70, R74; 70_reset_and_hazards.md R80). -/

namespace Sys2Proof.Machine

/-- The state with `CFG` replaced. Only `LDCFG` and reset write it (R11). -/
def State.withCfg (s : State) (c : Cfg) : State := { s with cfg := c }

/-- The state with the host's remaining events replaced. -/
def State.withPending (s : State) (events : List HostEvent) : State := { s with pending := events }

/-- The state with one more response word read by the host. -/
def State.withResponse (s : State) (w : Rsp) : State := { s with responses := s.responses ++ [w] }

/-- `respond`: end the operation with the response word of a result (R34). Nothing else changes: the block saves nothing,
sets no flag and transfers control nowhere (R74). -/
def answer (r : Response) (s : State) : Host.Outcome State Fault Refusal :=
  .next (s.withResponse (responseWord r))

/-- `raise OutOfRange` of the rules' pseudocode: the block has no trap, so it is a response (R58, R74). -/
def outOfRange : RangeResult := .error .outOfRange

/-- Write the whole of `CFG` from an operand, with `VALID` set (R65). -/
def loadCfg (eccv : BitVec 1) (layoutCode : BitVec 2) (oobsz : Offset) (s : State) : State :=
  s.withCfg (cfgOfFields 1#1 eccv layoutCode oobsz)

/-- The event `RESET`: its whole effect is `CFG <- 0`, and it has no response (R80). -/
def applyReset (s : State) : State := s.withCfg 0#20

end Sys2Proof.Machine
end

