-- ==== Sys2Proof/Machine/ConfigLoad.lean ====
section
/-! DEFINITION. `LDCFG`, the one operation that writes `CFG` (spec/42_config.md R65 to R67). -/

namespace Sys2Proof.Machine

/-- `LDCFG`: accepted once after a reset, ignored from then on, whether or not the operand equals what is stored; it
validates nothing (R65, R66, R67). -/
def execLdcfg (v : EccVariant) (l : LayoutCode) (size : Offset) (s : State) :
    Host.Outcome State Fault Refusal :=
  if cfgValid s.cfg then answer (.cfg .ignored) s
  else answer (.cfg .accepted) (loadCfg (variantBits v) (layoutBits l) size s)

end Sys2Proof.Machine
end

