-- ==== Sys2Proof/Config.lean ====
section
/-! DEFINITION. The parameters of the block that the spec leaves open (spec/00_scope.md R4; 93_implementation_defined.md
U7, U8). They are constants of the block, not state (10_state.md R10): one value for the whole life of a block, and no
proof can see which. -/

namespace Sys2Proof

/-- The two Variant A patterns that the source does not give, status bits [6:4] (R4, decision D11). -/
structure VariantAParams where
  /-- `PA3`, the pattern of `Corrected(3)`. -/
  pa3 : BitVec 3
  /-- `PA6`, the pattern of `Corrected(6)`. -/
  pa6 : BitVec 3
  deriving DecidableEq, Repr, Inhabited

/-- The five Variant B patterns, status bits [7:4]; the source gives none of them (R4, decision D12). -/
structure VariantBParams where
  /-- `PB_CLEAN`, the pattern of `Clean`. -/
  pbClean : BitVec 4
  /-- `PB_UNC`, the pattern of `Uncorrectable`. -/
  pbUnc : BitVec 4
  /-- `PB3`, the pattern of `Corrected(3)`. -/
  pb3 : BitVec 4
  /-- `PB6`, the pattern of `Corrected(6)`. -/
  pb6 : BitVec 4
  /-- `PB8`, the pattern of `Corrected(8)`. -/
  pb8 : BitVec 4
  deriving DecidableEq, Repr, Inhabited

/-- The free choice behind `PA3` and `PA6`: a constant without a body, of which nothing can be proved.
DESIGN CHOICE (the form), safe: log 5. The block reads it only through `Machine.paramsA`, which is well-formed. -/
opaque Config.rawVariantA : VariantAParams

/-- The free choice behind the five Variant B patterns: a constant without a body.
DESIGN CHOICE (the form), safe: log 6. The block reads it only through `Machine.paramsB`, which is well-formed. -/
opaque Config.rawVariantB : VariantBParams

end Sys2Proof
end

