-- ==== Sys2Proof/WellFormed.lean ====
section
/-! DEFINITION. The checks on data: a parameter assignment (spec/00_scope.md R5), an instruction against the mode its row
of the opcode table names (30_encoding.md R37), and the numbers of an assembler line (30_encoding.md R38). -/

namespace Sys2Proof

/-- The patterns R5 allows for `PA3` and `PA6`: neither one of the three pinned patterns nor the unused `0b110`. -/
def allowedOpenPattern (p : BitVec 3) : Bool :=
  p == 0b001#3 || p == 0b011#3 || p == 0b100#3 || p == 0b111#3

/-- R5 (a): `PA3` and `PA6` are two different allowed patterns. -/
def VariantAParams.wellFormed (k : VariantAParams) : Bool :=
  allowedOpenPattern k.pa3 && allowedOpenPattern k.pa6 && k.pa3 != k.pa6

/-- R5 (b): the five Variant B patterns are pairwise different. -/
def VariantBParams.wellFormed (k : VariantBParams) : Bool :=
  decide ([k.pbClean, k.pbUnc, k.pb3, k.pb6, k.pb8].Pairwise (· ≠ ·))

/-- An instruction is well-formed under a configuration when that configuration selects its row: the `mode` column of
spec/opcode_table.json (R37). Every operand fits its field by its type. -/
def Instr.wellFormed (c : Cfg) : Instr → Bool
  | .decA _ => Machine.variant c == .a
  | .decB _ => Machine.variant c == .b
  | .decU _ => Machine.variant c == .u
  | .eccrL4 _ => Machine.layout c == .l4
  | .eccrL1F _ => Machine.layout c == .l1f
  | .eccrLP _ => Machine.layout c == .lp
  | .eccrZ _ => Machine.layout c == .z
  | .freerL4 _ => Machine.layout c == .l4
  | .freerL1F _ => Machine.layout c == .l1f
  | .freerLP _ => Machine.layout c == .lp
  | .freerZ _ => Machine.layout c == .z
  | .ldcfg _ _ _ => true

/-- The ranges R38 gives for the numbers of a line. -/
def AsmLine.wellFormed : AsmLine → Bool
  | .dec status => decide (status ≤ 255)
  | .eccr index => decide (index ≤ 4194303)
  | .freer index => decide (index ≤ 4194303)
  | .ldcfg _ _ size => decide (size ≤ 65535)
  | .reset => true

end Sys2Proof
end

