-- ==== Sys2Proof/Machine/Params.lean ====
section
/-! DEFINITION. The parameter assignment the block is built with (spec/00_scope.md R4, R5): whatever the free constants of
Config are, the assignment is well-formed, and every well-formed assignment is possible. -/

namespace Sys2Proof.Machine

/-- The defaults of R4 for `PA3` and `PA6` (decision D11). A claim may name them as its premise; the block itself is not
tied to them. -/
def defaultParamsA : VariantAParams := ⟨0b001#3, 0b011#3⟩

/-- A labelled example assignment of Variant B, for running tests only (93_implementation_defined.md U2, from general
knowledge): `PB_CLEAN = 0`, `PB_UNC = 2`, `PB3 = 1`, `PB6 = 3`, `PB8 = 5`. No default of the spec. -/
def exampleParamsB : VariantBParams := ⟨0x0#4, 0x2#4, 0x1#4, 0x3#4, 0x5#4⟩

/-- An assignment made well-formed: itself where it is well-formed, else a well-formed one. R5 lets a model take only
well-formed assignments. -/
def fixA (k : VariantAParams) : VariantAParams := if k.wellFormed then k else defaultParamsA

/-- The same for Variant B. -/
def fixB (k : VariantBParams) : VariantBParams := if k.wellFormed then k else exampleParamsB

/-- `PA3` and `PA6` of this block: some well-formed assignment, no proof can see which. Safe: log 5. -/
def paramsA : VariantAParams := fixA Config.rawVariantA

/-- The five Variant B patterns of this block: some well-formed assignment, no proof can see which. Safe: log 6. -/
def paramsB : VariantBParams := fixB Config.rawVariantB

end Sys2Proof.Machine
end

