-- ==== Sys2Proof/Machine/EccDecode.lean ====
section
/-! DEFINITION. The ECC status decoder: the tables and the three rows of `DEC` (spec/40_ecc_decode.md R40 to R46). The two
variants are separate tables and stay separate (R45). -/

namespace Sys2Proof.Machine

/-- What Variant A examines: `STATUS[6:4]`; bit 7 and bits [3:0] have no influence (R41, R45). -/
def patternA (status : Status) : BitVec 3 := status.extractLsb' 4 3

/-- What Variant B examines: `STATUS[7:4]`; bits [3:0] have no influence (R42, R45). -/
def patternB (status : Status) : BitVec 4 := status.extractLsb' 4 4

/-- Variant A's table (R41). The four patterns the source fixes (`0b000` clean, `0b010` uncorrectable, `0b101` corrected 8,
`0b110` unused) are asked before the two parameters, so that a byte with one of them is decided without knowing the
parameters; R41 says that the order of the tests does not matter for a well-formed assignment. DEDUCED, safe: log 7. -/
def tableA (k : VariantAParams) (p : BitVec 3) : EccResult :=
  if p = 0b000#3 then .clean
  else if p = 0b010#3 then .uncorrectable
  else if p = 0b101#3 then .corrected .upTo8
  else if p = 0b110#3 then .unrecognized
  else if p = k.pa3 then .corrected .upTo3
  else if p = k.pa6 then .corrected .upTo6
  else .unrecognized

/-- Variant B's table (R42). -/
def tableB (k : VariantBParams) (q : BitVec 4) : EccResult :=
  if q = k.pbClean then .clean
  else if q = k.pbUnc then .uncorrectable
  else if q = k.pb3 then .corrected .upTo3
  else if q = k.pb6 then .corrected .upTo6
  else if q = k.pb8 then .corrected .upTo8
  else .unrecognized

/-- `DEC.A(STATUS)` (R41). -/
def execDecA (status : Status) (s : State) : Host.Outcome State Fault Refusal :=
  answer (.ecc (tableA paramsA (patternA status))) s

/-- `DEC.B(STATUS)` (R42). -/
def execDecB (status : Status) (s : State) : Host.Outcome State Fault Refusal :=
  answer (.ecc (tableB paramsB (patternB status))) s

/-- `DEC.U(STATUS)`: before configuration the known table is empty (R43). -/
def execDecU (_status : Status) (s : State) : Host.Outcome State Fault Refusal :=
  answer (.ecc .unrecognized) s

end Sys2Proof.Machine
end

