-- ==== Sys2Proof/Machine/OobMap.lean ====
section
/-! DEFINITION. The OOB region mapper: the range formulas of the three layouts and the eight rows of `ECCR` and `FREER`
(spec/41_oob_map.md R50 to R60). The arithmetic is on unsigned 16-bit values (R60). -/

namespace Sys2Proof.Machine

/-- The index is compared with the region count before any formula is used, as a 22-bit unsigned number: never clamped,
never reduced (R50, R58, R73). -/
def checkIndex (count : Nat) (index : Index) (range : Range) : RangeResult :=
  if count ≤ index.toNat then outOfRange else .ok range

/-- `zext_16(INDEX[1:0])`, the region number of layout L4 (R51, R52). -/
def regionOf (index : Index) : Offset := (index.extractLsb' 0 2).setWidth 16

/-- `ecc_region(i)` of L4: bytes `[16*i+8, 16*i+16)` (R51). -/
def eccRangeL4 (index : Index) : Range :=
  ⟨16#16 * regionOf index + 8#16, 16#16 * regionOf index + 16#16⟩

/-- `free_region(i)` of L4: bytes `[16*i+2, 16*i+8)` (R52). -/
def freeRangeL4 (index : Index) : Range :=
  ⟨16#16 * regionOf index + 2#16, 16#16 * regionOf index + 8#16⟩

/-- `ecc_region(0)` of L1F: bytes `[64, 128)` (R53). -/
def eccRangeL1F : Range := ⟨64#16, 128#16⟩

/-- `free_region(0)` of L1F: bytes `[1, 64)` (R54). -/
def freeRangeL1F : Range := ⟨1#16, 64#16⟩

/-- `ecc_region(0)` of LP: the upper half of the spare area, recomputed from its size (R55, R60). -/
def eccRangeLP (oobsz : Offset) : Range := ⟨oobsz >>> 1, oobsz⟩

/-- `free_region(0)` of LP: bytes `[2, oob_size/2)`, with no check between its ends (R56, R60). -/
def freeRangeLP (oobsz : Offset) : Range := ⟨2#16, oobsz >>> 1⟩

/-- `ECCR.L4(INDEX)` (R51). -/
def execEccrL4 (index : Index) (s : State) : Host.Outcome State Fault Refusal :=
  answer (.range (checkIndex (regionCount .l4) index (eccRangeL4 index))) s

/-- `FREER.L4(INDEX)` (R52). -/
def execFreerL4 (index : Index) (s : State) : Host.Outcome State Fault Refusal :=
  answer (.range (checkIndex (regionCount .l4) index (freeRangeL4 index))) s

/-- `ECCR.L1F(INDEX)` (R53). -/
def execEccrL1F (index : Index) (s : State) : Host.Outcome State Fault Refusal :=
  answer (.range (checkIndex (regionCount .l1f) index eccRangeL1F)) s

/-- `FREER.L1F(INDEX)` (R54). -/
def execFreerL1F (index : Index) (s : State) : Host.Outcome State Fault Refusal :=
  answer (.range (checkIndex (regionCount .l1f) index freeRangeL1F)) s

/-- `ECCR.LP(INDEX)`: the size is read from `CFG` at every request (R55). -/
def execEccrLP (index : Index) (s : State) : Host.Outcome State Fault Refusal :=
  answer (.range (checkIndex (regionCount .lp) index (eccRangeLP (cfgOobsz s.cfg)))) s

/-- `FREER.LP(INDEX)`: the size is read from `CFG` at every request (R56). -/
def execFreerLP (index : Index) (s : State) : Host.Outcome State Fault Refusal :=
  answer (.range (checkIndex (regionCount .lp) index (freeRangeLP (cfgOobsz s.cfg)))) s

/-- `ECCR.Z(INDEX)`: no regions, so every index is out of range (R57). -/
def execEccrZ (_index : Index) (s : State) : Host.Outcome State Fault Refusal :=
  answer (.range outOfRange) s

/-- `FREER.Z(INDEX)`: no regions, so every index is out of range (R57). -/
def execFreerZ (_index : Index) (s : State) : Host.Outcome State Fault Refusal :=
  answer (.range outOfRange) s

end Sys2Proof.Machine
end

