-- ==== Sys2Proof/Machine/Dispatch.lean ====
section
/-! DEFINITION. One arm per row of spec/opcode_table.json, each one call of that row's meaning. -/

namespace Sys2Proof.Machine

def exec (i : Instr) (s : State) : Host.Outcome State Fault Refusal :=
  match i with
  | .decA status => Sys2Proof.Machine.execDecA status s
  | .decB status => Sys2Proof.Machine.execDecB status s
  | .decU status => Sys2Proof.Machine.execDecU status s
  | .eccrL4 index => Sys2Proof.Machine.execEccrL4 index s
  | .eccrL1F index => Sys2Proof.Machine.execEccrL1F index s
  | .eccrLP index => Sys2Proof.Machine.execEccrLP index s
  | .eccrZ index => Sys2Proof.Machine.execEccrZ index s
  | .freerL4 index => Sys2Proof.Machine.execFreerL4 index s
  | .freerL1F index => Sys2Proof.Machine.execFreerL1F index s
  | .freerLP index => Sys2Proof.Machine.execFreerLP index s
  | .freerZ index => Sys2Proof.Machine.execFreerZ index s
  | .ldcfg v l size => Sys2Proof.Machine.execLdcfg v l size s

end Sys2Proof.Machine
end

