-- ==== Sys2Proof/Decode.lean ====
section
/-! DEFINITION. From a request word to the row of the opcode table that answers it, and back (spec/30_encoding.md R32, R33,
R36, R37, R39). Decoding has two stages, as R39 says: the word gives the operation and its operand, then `CFG` chooses
the row. It is total and refuses nothing: no request word is illegal (R36). -/

namespace Sys2Proof

/-- The decoder of R39: by `OP`, the operation and its operand. -/
def decodeRequest (w : Req) : Request :=
  if Machine.reqOp w = 0#2 then .dec (Machine.reqStatus w)
  else if Machine.reqOp w = 1#2 then .eccr (Machine.reqIndex w)
  else if Machine.reqOp w = 2#2 then .freer (Machine.reqIndex w)
  else .ldcfg (Machine.variantOfBits (Machine.reqEccv w)) (Machine.layoutOfBits (Machine.reqLayout w))
    (Machine.reqOobsz w)

/-- The row of `DEC` (R40). -/
def selectDec (v : Machine.Variant) (status : Status) : Instr :=
  match v with
  | .a => .decA status
  | .b => .decB status
  | .u => .decU status

/-- The row of `ECCR` (R50). -/
def selectEccr (l : Machine.Layout) (index : Index) : Instr :=
  match l with
  | .l4 => .eccrL4 index
  | .l1f => .eccrL1F index
  | .lp => .eccrLP index
  | .z => .eccrZ index

/-- The row of `FREER` (R50). -/
def selectFreer (l : Machine.Layout) (index : Index) : Instr :=
  match l with
  | .l4 => .freerL4 index
  | .l1f => .freerL1F index
  | .lp => .freerLP index
  | .z => .freerZ index

/-- The row of a request under a configuration: by `variant(CFG)` for `DEC`, by `layout(CFG)` for `ECCR` and `FREER`
(R37, R39). -/
def selectRow (c : Cfg) : Request → Instr
  | .dec status => selectDec (Machine.variant c) status
  | .eccr index => selectEccr (Machine.layout c) index
  | .freer index => selectFreer (Machine.layout c) index
  | .ldcfg v l size => .ldcfg v l size

/-- The instruction a request word is under a configuration (R39). -/
def decode (c : Cfg) (w : Req) : Instr := selectRow c (decodeRequest w)

/-- The operation of a row, its mode left off: the suffix of a row's name is not encoded in the word (R37). -/
def Instr.request : Instr → Request
  | .decA status => .dec status
  | .decB status => .dec status
  | .decU status => .dec status
  | .eccrL4 index => .eccr index
  | .eccrL1F index => .eccr index
  | .eccrLP index => .eccr index
  | .eccrZ index => .eccr index
  | .freerL4 index => .freer index
  | .freerL1F index => .freer index
  | .freerLP index => .freer index
  | .freerZ index => .freer index
  | .ldcfg v l size => .ldcfg v l size

/-- The request word of an operation, every reserved bit zero as a host should write it (R33, R36, R38). -/
def encodeRequest : Request → Req
  | .dec status => 0#2 ++ 0#14 ++ status
  | .eccr index => 1#2 ++ index
  | .freer index => 2#2 ++ index
  | .ldcfg v l size => 3#2 ++ 0#3 ++ Machine.variantBits v ++ Machine.layoutBits l ++ size

/-- The request word of an instruction. -/
def encode (i : Instr) : Req := encodeRequest i.request

/-- What an assembler line asks the host to do; `none` where a number is out of its range (R38). -/
def assemble (line : AsmLine) : Option HostEvent :=
  if line.wellFormed then
    match line with
    | .dec status => some (.request (encodeRequest (.dec (BitVec.ofNat 8 status))))
    | .eccr index => some (.request (encodeRequest (.eccr (BitVec.ofNat 22 index))))
    | .freer index => some (.request (encodeRequest (.freer (BitVec.ofNat 22 index))))
    | .ldcfg v l size => some (.request (encodeRequest (.ldcfg v l (BitVec.ofNat 16 size))))
    | .reset => some .reset
  else none

/-- A row's bits as the opcode table numbers them, as a request word: the bits at and above `nbits` are zero. A request
word is one word of exactly 24 bits and has no serialisation into bytes (R32; 20_memory.md R21), so nothing is laid
out. DESIGN CHOICE, safe: log 15. -/
def tableReq (nbits w : Nat) : Req := BitVec.ofNat 24 (w % 2 ^ nbits)

/-- The instruction the decoder reads from a word of the opcode table. The table gives the rows of one operation the same
word, and only `CFG` tells them apart (R37); no configuration comes with the word, so this is the row selected right
after reset, `CFG = 0` (10_state.md R19), the same row that `step` runs first. More than 24 bits are no request word.
DEDUCED, safe: log 3. -/
def decodeTableWord (nbits w : Nat) : Option Instr :=
  if nbits ≤ 24 then some (decode 0#20 (tableReq nbits w)) else none

end Sys2Proof
end

