-- ==== Sys2Proof/Machine/Fetch.lean ====
section
/-! DEFINITION. Where the next operation comes from: the host issues it (spec/10_state.md R14; 00_scope.md R3;
70_reset_and_hazards.md R85). The block fetches nothing and has no program counter. -/

namespace Sys2Proof.Machine

/-- What the host does next. -/
inductive NextEvent where
  /-- The host's sequence is exhausted: the run is over (R85). -/
  | idle
  /-- The host applies `RESET` (R80). -/
  | reset
  /-- The host issues a request word (R3). -/
  | request (word : Req)
  deriving DecidableEq, Repr

/-- The host's next event. -/
def nextEvent (s : State) : NextEvent :=
  match s.pending with
  | [] => .idle
  | .reset :: _ => .reset
  | .request w :: _ => .request w

/-- The state with the host's next event taken off its sequence. -/
def takeEvent (s : State) : State := s.withPending s.pending.tail

/-- The instruction a request word is for the block as it stands (30_encoding.md R37, R39). -/
def instrOf (s : State) (w : Req) : Instr := decode s.cfg w

/-- The state in which the host issues the request word `w` next, then what it was going to issue. -/
def issueFirst (w : Req) (s : State) : State := s.withPending (.request w :: s.pending)

end Sys2Proof.Machine
end

