-- ==== Sys2Proof/Machine/Step.lean ====
section
/-! DEFINITION. One step: one event of the host, answered completely (spec/00_scope.md R3; 20_memory.md R30;
70_reset_and_hazards.md R80, R85). -/

namespace Sys2Proof.Machine

/-- One step. A request is taken off the host's sequence and its instruction runs; `RESET` clears `CFG` and answers
nothing. When the host issues nothing the run is over and the state stays as it is: the block never stops of its own
accord (R85; DESIGN CHOICE, safe: log 2). -/
def step (s : State) : Host.Outcome State Fault Refusal :=
  match nextEvent s with
  | .idle => .next s
  | .reset => .next (applyReset (takeEvent s))
  | .request w => exec (instrOf s w) (takeEvent s)

/-- The host issues the given request word next: the very next step runs it. `CFG` stays as it is, so that the row that
runs is the one the state selects (30_encoding.md R37; log 3). -/
def State.withFetchWord (s : State) (nbits w : Nat) : State := issueFirst (tableReq nbits w) s

end Sys2Proof.Machine
end

