-- ==== Sys2Proof/Machine/SpareMap.lean ====
section
/-! DEFINITION. What a byte range denotes, the map of the flash page's spare area under each layout, and well-formed geometry
(spec/00_scope.md R7; 20_memory.md R24 to R29). The block holds none of these bytes (R20): these are definitions over
`CFG` in which claims about the mapper's answers are stated. The maps are written from the tables of R24 to R26, not
from the mapper's formulas. -/

namespace Sys2Proof.Machine

/-- The offset `b` is in the set a range denotes (R7). -/
def rangeHas (r : Range) (b : Nat) : Bool := decide (r.start.toNat ≤ b ∧ b < r.stop.toNat)

/-- A range with its start beyond its end (R7). -/
def rangeInverted (r : Range) : Bool := decide (r.stop.toNat < r.start.toNat)

/-- The length of a range that is not inverted (R7). -/
def rangeLength (r : Range) : Nat := r.stop.toNat - r.start.toNat

/-- A range is inside `[0, n)` (R7). -/
def rangeInside (r : Range) (n : Nat) : Bool := decide (r.start.toNat ≤ r.stop.toNat ∧ r.stop.toNat ≤ n)

/-- Two ranges share a byte (R7). -/
def rangesOverlap (r t : Range) : Bool :=
  decide (max r.start.toNat t.start.toNat < min r.stop.toNat t.stop.toNat)

/-- The spare-area size in bytes as a number (R11). -/
def spareSize (c : Cfg) : Nat := (cfgOobsz c).toNat

/-- The offset `b` belongs to free region `i` by the map of the layout (R24, R25, R26). -/
def isFreeByte (c : Cfg) (i b : Nat) : Bool :=
  match layout c with
  | .l4 => decide (i < 4 ∧ 16 * i + 2 ≤ b ∧ b ≤ 16 * i + 7)
  | .l1f => decide (i = 0 ∧ 1 ≤ b ∧ b ≤ 63)
  | .lp => decide (i = 0 ∧ 2 ≤ b ∧ b + 1 ≤ spareSize c / 2)
  | .z => false

/-- The offset `b` belongs to ECC region `i` by the map of the layout (R24, R25, R26). -/
def isEccByte (c : Cfg) (i b : Nat) : Bool :=
  match layout c with
  | .l4 => decide (i < 4 ∧ 16 * i + 8 ≤ b ∧ b ≤ 16 * i + 15)
  | .l1f => decide (i = 0 ∧ 64 ≤ b ∧ b ≤ 127)
  | .lp => decide (i = 0 ∧ spareSize c / 2 ≤ b ∧ b + 1 ≤ spareSize c)
  | .z => false

/-- The offset `b` is reserved for the bad-block marker (R25, R26); under L4 the source reserves no byte by name (R27). -/
def isMarkerByte (c : Cfg) (b : Nat) : Bool :=
  match layout c with
  | .l4 => false
  | .l1f => decide (b = 0)
  | .lp => decide (b ≤ 1)
  | .z => false

/-- `WF(CFG)`, well-formed geometry (R29): a duty of the host, never checked by the block (42_config.md R67). -/
def wellFormedGeometry (c : Cfg) : Bool :=
  cfgValid c &&
    (decide (cfgLayout c = 0#2 ∧ 64 ≤ spareSize c) ||
     decide (cfgLayout c = 1#2 ∧ 128 ≤ spareSize c) ||
     decide (cfgLayout c = 2#2 ∧ 4 ≤ spareSize c))

end Sys2Proof.Machine
end

