-- ==== Sys2Proof/Safety.lean ====
section
/-! DEFINITION. The terms claims about the machine are stated in: the answer to one request, the response words the block
can produce, the invariant of every state a run reaches, and a word-level reference of the whole block to compare the
machine with. -/

namespace Sys2Proof.Machine

/-- `w` is the response word the block answers the request word `q` with in the state `s`: the host issues `q` next, and
the step puts `w` behind the words read so far (spec/30_encoding.md R34). -/
def Answers (s : State) (q : Req) (w : Rsp) : Prop :=
  ∃ t, step (issueFirst q s) = .next t ∧ t.responses = s.responses ++ [w]

/-- The response words without a payload or with a count, as 30_encoding.md writes them out under R35. -/
def plainResponseWords : List Rsp :=
  [0x000000000#36, 0x200000003#36, 0x200000006#36, 0x200000008#36, 0x500000000#36, 0x700000000#36,
   0xA00000000#36, 0xC00000000#36, 0xE00000000#36]

/-- The ends a range of the mapper can have: one of L4's or L1F's, or a half of some spare area (41_oob_map.md R51 to
R56). -/
def producibleEnds (a b : Nat) : Bool :=
  decide (a = b / 2 ∨ (a = 2 ∧ b ≤ 32767) ∨
    (a, b) ∈ [(18, 24), (34, 40), (50, 56), (24, 32), (40, 48), (56, 64), (1, 64)])

/-- A response word the block can produce: one of R35's forms, `UNC` set with `RC` 2 and 3 only, and a range only with
ends of the mapper's. -/
def legalResponse (w : Rsp) : Bool :=
  decide (w ∈ plainResponseWords) ||
    (rspRc w == 4#3 && rspUnc w == 0#1 && producibleEnds (rspA w).toNat (rspB w).toNat)

/-- The invariant of every state a run from reset reaches: before configuration every bit of `CFG` is still 0 (R19, R65,
R80), and the host has read only words the block can produce (R34, R35; R51 to R56 for a
range's ends). -/
def Inv (s : State) : Prop :=
  (cfgValid s.cfg = false → s.cfg = 0#20) ∧ ∀ w ∈ s.responses, legalResponse w = true

/-- The word of a range, as R35's last paragraph computes it. -/
def referenceRange (a b : Nat) : Nat := 0x800000000 + a * 0x10000 + b

/-- Reference for `DEC`, on numbers: the table's result word for the status byte under the configuration (R40 to R43). -/
def referenceDec (c status : Nat) : Nat :=
  if c / 2 ^ 19 = 0 then 0x700000000
  else if c / 2 ^ 18 % 2 = 0 then
    (let p := status / 16 % 8
     if p = 0 then 0x000000000
     else if p = paramsA.pa3.toNat then 0x200000003
     else if p = 2 then 0x500000000
     else if p = paramsA.pa6.toNat then 0x200000006
     else if p = 5 then 0x200000008
     else 0x700000000)
  else
    (let q := status / 16
     if q = paramsB.pbClean.toNat then 0x000000000
     else if q = paramsB.pbUnc.toNat then 0x500000000
     else if q = paramsB.pb3.toNat then 0x200000003
     else if q = paramsB.pb6.toNat then 0x200000006
     else if q = paramsB.pb8.toNat then 0x200000008
     else 0x700000000)

/-- Reference for `ECCR` (`ecc = true`) and `FREER` (`ecc = false`), on numbers (R50 to R57). -/
def referenceMap (ecc : Bool) (c index : Nat) : Nat :=
  let code := c / 2 ^ 16 % 4
  let o := c % 2 ^ 16
  if c / 2 ^ 19 = 0 ∨ code = 3 then 0xA00000000
  else if code = 0 then
    (if index < 4 then
      (if ecc then referenceRange (16 * index + 8) (16 * index + 16)
       else referenceRange (16 * index + 2) (16 * index + 8))
     else 0xA00000000)
  else if index = 0 then
    (if code = 1 then (if ecc then referenceRange 64 128 else referenceRange 1 64)
     else (if ecc then referenceRange (o / 2) o else referenceRange 2 (o / 2)))
  else 0xA00000000

/-- Reference for the response to a request word, on numbers: a function of `CFG` and `REQ` alone (R34). -/
def referenceResponse (c q : Nat) : Nat :=
  let op := q / 2 ^ 22
  if op = 0 then referenceDec c (q % 2 ^ 8)
  else if op = 1 then referenceMap true c (q % 2 ^ 22)
  else if op = 2 then referenceMap false c (q % 2 ^ 22)
  else if c / 2 ^ 19 = 0 then 0xC00000000 else 0xE00000000

/-- Reference for `CFG` after a request word, on numbers: only the first `LDCFG` changes it (R10, R65, R66). -/
def referenceCfg (c q : Nat) : Nat :=
  if q / 2 ^ 22 = 3 ∧ c / 2 ^ 19 = 0 then 0x80000 + q % 2 ^ 19 else c

/-- Reference for a whole run: the events one after another, each answered from `CFG` alone, the words in order (R3, R30,
R80, R85). It answers `CFG` at the end and the words produced. -/
def referenceRun (c : Nat) : List HostEvent → Nat × List Nat
  | [] => (c, [])
  | .reset :: rest => referenceRun 0 rest
  | .request w :: rest =>
    let r := referenceRun (referenceCfg c w.toNat) rest
    (r.1, referenceResponse c w.toNat :: r.2)

end Sys2Proof.Machine
end

