-- ==== Sys2Proof/Certificates/Slice0/Obligations.lean ====
section
/-! DEFINITION. The statements about the block, from the numbered rules of spec/. Numbers written in a statement are the
spec's own, not the model's functions. "s with one more response word and nothing else changed" is the frame: the block
has no other state. -/

open Sys2Proof Sys2Proof.Machine

/-! ## The rows of DEC (spec/40_ecc_decode.md) -/

/-- R41. In the mode `VALID = 1`, `ECCV = 0` a word with `OP = 0` is `DEC.A` of its low byte, whatever its reserved bits;
`DEC.A` completes in every state with the response of the five patterns compared with `STATUS[6:4]`, in the order R41
writes them, and changes nothing else. The open patterns are the block's well-formed parameters, whatever they are. -/
def Obligations.DecAAnswersByVariantATable : Prop :=
  (∀ (rest : BitVec 18) (x : BitVec 14) (status : Status),
    decode (1#1 ++ 0#1 ++ rest) (0#2 ++ x ++ status) = .decA status) ∧
  ∀ (status : Status) (s : State), exec (.decA status) s = .next { s with responses := s.responses ++
    [let p := (status >>> 4) &&& 0b111#8
     if p = 0b000#8 then 0x000000000#36
     else if p = paramsA.pa3.setWidth 8 then 0x200000003#36
     else if p = 0b010#8 then 0x500000000#36
     else if p = paramsA.pa6.setWidth 8 then 0x200000006#36
     else if p = 0b101#8 then 0x200000008#36
     else 0x700000000#36] }

/-- R42. In the mode `VALID = 1`, `ECCV = 1` a word with `OP = 0` is `DEC.B` of its low byte; `DEC.B` completes in every
state with the response of the five Variant B patterns compared with `STATUS[7:4]`, and changes nothing else. -/
def Obligations.DecBAnswersByVariantBTable : Prop :=
  (∀ (rest : BitVec 18) (x : BitVec 14) (status : Status),
    decode (1#1 ++ 1#1 ++ rest) (0#2 ++ x ++ status) = .decB status) ∧
  ∀ (status : Status) (s : State), exec (.decB status) s = .next { s with responses := s.responses ++
    [let q := status >>> 4
     if q = paramsB.pbClean.setWidth 8 then 0x000000000#36
     else if q = paramsB.pbUnc.setWidth 8 then 0x500000000#36
     else if q = paramsB.pb3.setWidth 8 then 0x200000003#36
     else if q = paramsB.pb6.setWidth 8 then 0x200000006#36
     else if q = paramsB.pb8.setWidth 8 then 0x200000008#36
     else 0x700000000#36] }

/-- R43. In the mode `VALID = 0` a word with `OP = 0` is `DEC.U`; it completes in every state with `UNRECOGNIZED` for every
status byte, and changes nothing else. -/
def Obligations.DecUAnswersUnrecognized : Prop :=
  (∀ (rest : BitVec 19) (x : BitVec 14) (status : Status),
    decode (0#1 ++ rest) (0#2 ++ x ++ status) = .decU status) ∧
  ∀ (status : Status) (s : State),
    exec (.decU status) s = .next { s with responses := s.responses ++ [0x700000000#36] }

/-! ## The rows of ECCR and FREER (spec/41_oob_map.md) -/

/-- R51. `ECCR.L4` is selected by `VALID = 1`, `LAYOUT = 0`, and completes in every state: `[16i+8, 16i+16)` for an index
below 4, else `OUT_OF_RANGE`; nothing else changes, and `OOBSZ` is not read. -/
def Obligations.EccrL4AnswersFixedRegion : Prop :=
  (∀ (v : BitVec 1) (o : Offset) (index : Index),
    decode (1#1 ++ v ++ 0#2 ++ o) (1#2 ++ index) = .eccrL4 index) ∧
  ∀ (index : Index) (s : State), exec (.eccrL4 index) s = .next { s with responses := s.responses ++
    [if index.toNat < 4 then
       BitVec.ofNat 36 (0x800000000 + (16 * index.toNat + 8) * 0x10000 + (16 * index.toNat + 16))
     else 0xA00000000#36] }

/-- R52. `FREER.L4`: `[16i+2, 16i+8)` for an index below 4, else `OUT_OF_RANGE`; completes in every state, nothing else
changes. -/
def Obligations.FreerL4AnswersFixedRegion : Prop :=
  (∀ (v : BitVec 1) (o : Offset) (index : Index),
    decode (1#1 ++ v ++ 0#2 ++ o) (2#2 ++ index) = .freerL4 index) ∧
  ∀ (index : Index) (s : State), exec (.freerL4 index) s = .next { s with responses := s.responses ++
    [if index.toNat < 4 then
       BitVec.ofNat 36 (0x800000000 + (16 * index.toNat + 2) * 0x10000 + (16 * index.toNat + 8))
     else 0xA00000000#36] }

/-- R53. `ECCR.L1F`: `[64, 128)` for index 0, else `OUT_OF_RANGE`; completes in every state, nothing else changes. -/
def Obligations.EccrL1FAnswersFixedSplit : Prop :=
  (∀ (v : BitVec 1) (o : Offset) (index : Index),
    decode (1#1 ++ v ++ 1#2 ++ o) (1#2 ++ index) = .eccrL1F index) ∧
  ∀ (index : Index) (s : State), exec (.eccrL1F index) s = .next { s with responses := s.responses ++
    [if index = 0#22 then 0x800400080#36 else 0xA00000000#36] }

/-- R54. `FREER.L1F`: `[1, 64)` for index 0, else `OUT_OF_RANGE`; completes in every state, nothing else changes. -/
def Obligations.FreerL1FAnswersFixedSplit : Prop :=
  (∀ (v : BitVec 1) (o : Offset) (index : Index),
    decode (1#1 ++ v ++ 1#2 ++ o) (2#2 ++ index) = .freerL1F index) ∧
  ∀ (index : Index) (s : State), exec (.freerL1F index) s = .next { s with responses := s.responses ++
    [if index = 0#22 then 0x800010040#36 else 0xA00000000#36] }

/-- R55. `ECCR.LP`: with `o` the low 16 bits of `CFG`, `[o/2, o)` for index 0 (the half rounded down), else
`OUT_OF_RANGE`; completes in every state, for every size, nothing else changes. -/
def Obligations.EccrLPAnswersUpperHalf : Prop :=
  (∀ (v : BitVec 1) (o : Offset) (index : Index),
    decode (1#1 ++ v ++ 2#2 ++ o) (1#2 ++ index) = .eccrLP index) ∧
  ∀ (index : Index) (s : State), exec (.eccrLP index) s = .next { s with responses := s.responses ++
    [if index = 0#22 then
       BitVec.ofNat 36 (0x800000000 + (s.cfg.toNat % 65536 / 2) * 0x10000 + s.cfg.toNat % 65536)
     else 0xA00000000#36] }

/-- R56. `FREER.LP`: with `o` the low 16 bits of `CFG`, `[2, o/2)` for index 0, inverted for `o` below 4, else
`OUT_OF_RANGE`; completes in every state, for every size, nothing else changes. -/
def Obligations.FreerLPAnswersLowerHalf : Prop :=
  (∀ (v : BitVec 1) (o : Offset) (index : Index),
    decode (1#1 ++ v ++ 2#2 ++ o) (2#2 ++ index) = .freerLP index) ∧
  ∀ (index : Index) (s : State), exec (.freerLP index) s = .next { s with responses := s.responses ++
    [if index = 0#22 then
       BitVec.ofNat 36 (0x800000000 + 2 * 0x10000 + s.cfg.toNat % 65536 / 2)
     else 0xA00000000#36] }

/-- R57. `ECCR.Z` and `FREER.Z` are selected by `VALID = 0`, and by `VALID = 1` with `LAYOUT = 3`; they complete in every
state with `OUT_OF_RANGE` for every index, and change nothing else. -/
def Obligations.LayoutZAnswersOutOfRange : Prop :=
  (∀ (rest : BitVec 19) (v : BitVec 1) (o : Offset) (index : Index),
    decode (0#1 ++ rest) (1#2 ++ index) = .eccrZ index ∧
    decode (0#1 ++ rest) (2#2 ++ index) = .freerZ index ∧
    decode (1#1 ++ v ++ 3#2 ++ o) (1#2 ++ index) = .eccrZ index ∧
    decode (1#1 ++ v ++ 3#2 ++ o) (2#2 ++ index) = .freerZ index) ∧
  ∀ (index : Index) (s : State),
    exec (.eccrZ index) s = .next { s with responses := s.responses ++ [0xA00000000#36] } ∧
    exec (.freerZ index) s = .next { s with responses := s.responses ++ [0xA00000000#36] }

/-! ## LDCFG (spec/42_config.md) -/

/-- R65, R66, R67 as one equation over the fields: `LDCFG` completes in every state. Before configuration it stores
`VALID = 1` and its operand, whatever the operand, and answers `CFG_ACCEPTED`; after it `CFG` stays as it is, whatever the
operand, and the answer is `CFG_IGNORED`. Nothing else changes. -/
def Obligations.LdcfgLoadsOnceThenIgnores : Prop :=
  ∀ (v : EccVariant) (l : LayoutCode) (size : Offset) (s : State),
    exec (.ldcfg v l size) s = .next
      (if s.cfg.getLsbD 19 then { s with responses := s.responses ++ [0xE00000000#36] }
       else { s with
         cfg := BitVec.ofNat 20 (0x80000 + (match v with | .a => 0 | .b => 0x40000) +
           (match l with | .l4 => 0 | .l1f => 0x10000 | .lp => 0x20000 | .l3 => 0x30000) + size.toNat)
         responses := s.responses ++ [0xC00000000#36] })

/-- R65 and R66 on the request word: when the host issues a word with `OP = 3`, an unconfigured block stores
`0x80000 | (REQ & 0x7FFFF)` and answers `CFG_ACCEPTED`, the reserved bits not stored; a configured one keeps `CFG` and
answers `CFG_IGNORED`, even for the operand it holds. -/
def Obligations.LdcfgWordStoresOperandOnce : Prop :=
  ∀ (x : BitVec 22) (s : State),
    step { s with pending := .request (3#2 ++ x) :: s.pending } = .next
      (if s.cfg.toNat < 0x80000 then
         { s with
           cfg := 0x80000#20 ||| (x.setWidth 20 &&& 0x7FFFF#20)
           responses := s.responses ++ [0xC00000000#36] }
       else { s with responses := s.responses ++ [0xE00000000#36] })

/-! ## Steps, reset and runs (spec/00_scope.md, 10_state.md, 70_reset_and_hazards.md) -/

/-- A step runs the decoded instruction: when the host's next event is a request word, the step takes it off the host's
sequence and is `exec` of what the word decodes to under `CFG`. -/
def Obligations.StepRunsDecodedRequest : Prop :=
  ∀ (s : State) (q : Req) (rest : List HostEvent), s.pending = .request q :: rest →
    step s = exec (decode s.cfg q) { s with pending := rest }

/-- R80. `RESET` has no response and its whole effect is `CFG <- 0`, in every state; and it is the only way to leave the
configured state. -/
def Obligations.ResetClearsCfgAndAloneUnconfigures : Prop :=
  (∀ (s : State) (rest : List HostEvent),
    step { s with pending := .reset :: rest } = .next { s with cfg := 0#20, pending := rest }) ∧
  (∀ s t : State, step s = .next t → s.cfg.getLsbD 19 = true → t.cfg.getLsbD 19 = false →
    ∃ rest, s.pending = .reset :: rest)

/-- R19. After reset every bit of `CFG` is 0, so `VALID`, `ECCV`, `LAYOUT` and `OOBSZ` are 0, the variant is `U` and the
layout `Z`. -/
def Obligations.ResetStateIsUnconfigured : Prop :=
  State.reset.cfg = 0#20 ∧ cfgValid State.reset.cfg = false ∧ cfgEccv State.reset.cfg = 0#1 ∧ cfgLayout State.reset.cfg = 0#2 ∧
  cfgOobsz State.reset.cfg = 0#16 ∧ variant State.reset.cfg = .u ∧ layout State.reset.cfg = .z

/-- Whatever the state and the request word there is exactly one response word; the event is consumed, no other event is,
and no response word already read changes. -/
def Obligations.EveryRequestIsAnsweredOnce : Prop :=
  ∀ (s : State) (q : Req) (rest : List HostEvent), ∃ (t : State) (w : Rsp),
    step { s with pending := .request q :: rest } = .next t ∧ t.pending = rest ∧
    t.responses = s.responses ++ [w] ∧
    ∀ w', Answers { s with pending := rest } q w' → w' = w

/-- The machine never stops: from every state any number of steps is possible, and they issue the host's events one by
one, in order. Once the events are used up the steps change nothing (the model's choice, log 2). -/
def Obligations.RunNeverStops : Prop :=
  ∀ (k : Nat) (s : State), ∃ t, Sys2Proof.core.run k s = .next t ∧ t.pending = s.pending.drop k ∧
    (s.pending.length ≤ k → Sys2Proof.core.run s.pending.length s = .next t)

/-- Once configured, `CFG` is immutable along every run that issues no `RESET`, whatever else the host issues. -/
def Obligations.ConfigImmutableAlongRuns : Prop :=
  ∀ (k : Nat) (s t : State), s.cfg.getLsbD 19 = true →
    (∀ e ∈ s.pending.take k, e ≠ HostEvent.reset) →
    Sys2Proof.core.run k s = .next t → t.cfg = s.cfg

/-- Running the host's whole sequence refines the word-level reference: the final `CFG` and the words produced are those of
the rules computed on numbers, event by event, from `CFG` and the request word alone. -/
def Obligations.RunRefinesWordLevelReference : Prop :=
  ∀ s : State, ∃ t, Sys2Proof.core.run s.pending.length s = .next t ∧ t.pending = [] ∧
    t.cfg.toNat = (referenceRun s.cfg.toNat s.pending).1 ∧
    t.responses.map BitVec.toNat = s.responses.map BitVec.toNat ++ (referenceRun s.cfg.toNat s.pending).2

/-! ## The invariant -/

/-- Every step keeps the invariant: before configuration every bit of `CFG` is 0, and every word the host has read is one
the block can produce (R35), a range only with ends the formulas of R51 to R56 give. -/
def Obligations.InvariantKeptByEveryStep : Prop :=
  ∀ s t : State, Inv s → step s = .next t → Inv t

/-- The invariant holds right after reset. -/
def Obligations.InvariantAtReset : Prop := Inv State.reset

/-! ## Encoding (spec/30_encoding.md) -/

/-- R32, R37 and R39 on numbers: the row of every request word under every configuration. -/
def Obligations.DecodeByOpThenMode : Prop :=
  ∀ (c : Cfg) (q : Req),
    let status : Status := BitVec.ofNat 8 q.toNat
    let index : Index := BitVec.ofNat 22 q.toNat
    let valid := c.toNat / 2 ^ 19
    let eccv := c.toNat / 2 ^ 18 % 2
    let code := c.toNat / 2 ^ 16 % 4
    decode c q =
      match q.toNat / 2 ^ 22 with
      | 0 => if valid = 0 then .decU status else if eccv = 0 then .decA status else .decB status
      | 1 =>
        if valid = 0 ∨ code = 3 then .eccrZ index
        else if code = 0 then .eccrL4 index else if code = 1 then .eccrL1F index else .eccrLP index
      | 2 =>
        if valid = 0 ∨ code = 3 then .freerZ index
        else if code = 0 then .freerL4 index else if code = 1 then .freerL1F index else .freerLP index
      | _ =>
        .ldcfg (if q.toNat / 2 ^ 18 % 2 = 0 then .a else .b)
          (if q.toNat / 2 ^ 16 % 4 = 0 then .l4 else if q.toNat / 2 ^ 16 % 4 = 1 then .l1f
           else if q.toNat / 2 ^ 16 % 4 = 2 then .lp else .l3)
          (BitVec.ofNat 16 q.toNat)

/-- Decode and encode agree: for every configuration and every instruction that is well-formed under it, with every value
of every operand, decoding its encoding gives it back. -/
def Obligations.DecodeOfEncodeIsIdentity : Prop :=
  ∀ (c : Cfg) (i : Instr), i.wellFormed c = true → decode c (encode i) = i

/-- Every request word decodes, under every configuration, to an instruction that is well-formed there, and encoding that
instruction gives the word with its reserved bits cleared: no other bit is dropped. -/
def Obligations.EncodeOfDecodeClearsReservedBits : Prop :=
  ∀ (c : Cfg) (q : Req), (decode c q).wellFormed c = true ∧
    encode (decode c q) =
      (if q.toNat < 0x400000 then q &&& 0xC000FF#24
       else if q.toNat < 0xC00000 then q else q &&& 0xC7FFFF#24)

/-- The reserved bits of `DEC` and of `LDCFG` have no influence: words that differ only there make the same step, from
every state. -/
def Obligations.ReservedBitsHaveNoInfluence : Prop :=
  ∀ (s : State),
    (∀ (x y : BitVec 14) (status : Status),
      step (issueFirst (0#2 ++ x ++ status) s) = step (issueFirst (0#2 ++ y ++ status) s)) ∧
    (∀ (x y : BitVec 3) (operand : BitVec 19),
      step (issueFirst (3#2 ++ x ++ operand) s) = step (issueFirst (3#2 ++ y ++ operand) s))

/-- A few words of the spec's encoding table decode to the rows they stand for (30_encoding.md R38; 95_test_vectors.md
section 2), under the configuration named. -/
def Obligations.WrittenWordsDecode : Prop :=
  decode 0x80040#20 0x000020#24 = .decA 0x20#8 ∧
  decode 0xE0040#20 0x3FFF20#24 = .decB 0x20#8 ∧
  decode 0x00000#20 0x0000FF#24 = .decU 0xFF#8 ∧
  decode 0x80040#20 0x400003#24 = .eccrL4 3#22 ∧
  decode 0x90080#20 0x400000#24 = .eccrL1F 0#22 ∧
  decode 0xE0040#20 0x7FFFFF#24 = .eccrLP 4194303#22 ∧
  decode 0xB0040#20 0x800000#24 = .freerZ 0#22 ∧
  decode 0xA0040#20 0xBFFFFF#24 = .freerLP 4194303#22 ∧
  decode 0x00000#20 0xC60080#24 = .ldcfg .b .lp 128#16 ∧
  decode 0x00000#20 0xFE0080#24 = .ldcfg .b .lp 128#16

/-- The word-in-table reading and the first step agree: the instruction read from any 24-bit word is the one the first
step after reset runs when that word is issued. -/
def Obligations.TableWordRunsAsFirstStep : Prop :=
  ∀ (w : Nat), ∃ i, decodeTableWord 24 w = some i ∧
    step (State.reset.withFetchWord 24 w) = exec i State.reset

/-- Each result has exactly one response word and each word at most one result: reading the word of a result gives it back,
and a word that reads as a result is the word of that result. -/
def Obligations.ResponseWordsReadBack : Prop :=
  (∀ r : Response, readResponse (responseWord r) = some r) ∧
  (∀ (w : Rsp) (r : Response), readResponse w = some r → responseWord r = w)

/-- An assembler line with its numbers in range assembles to the request word of its operation with every reserved bit
zero, which the decoder reads back with the same numbers; a line with a number out of range does not assemble. -/
def Obligations.AssembledLinesDecodeToTheirNumbers : Prop :=
  (∀ n : Nat,
    assemble (.dec n) = (if n ≤ 255 then some (.request (BitVec.ofNat 24 n)) else none) ∧
    assemble (.eccr n) = (if n ≤ 4194303 then some (.request (BitVec.ofNat 24 (0x400000 + n))) else none) ∧
    assemble (.freer n) = (if n ≤ 4194303 then some (.request (BitVec.ofNat 24 (0x800000 + n))) else none) ∧
    (n ≤ 255 → decodeRequest (BitVec.ofNat 24 n) = .dec (BitVec.ofNat 8 n)) ∧
    (n ≤ 4194303 → decodeRequest (BitVec.ofNat 24 (0x400000 + n)) = .eccr (BitVec.ofNat 22 n)) ∧
    (n ≤ 4194303 → decodeRequest (BitVec.ofNat 24 (0x800000 + n)) = .freer (BitVec.ofNat 22 n))) ∧
  (∀ (v : EccVariant) (l : LayoutCode) (n : Nat),
    let word := BitVec.ofNat 24 (0xC00000 + (match v with | .a => 0 | .b => 0x40000) +
      (match l with | .l4 => 0 | .l1f => 0x10000 | .lp => 0x20000 | .l3 => 0x30000) + n)
    assemble (.ldcfg v l n) = (if n ≤ 65535 then some (.request word) else none) ∧
    (n ≤ 65535 → decodeRequest word = .ldcfg v l (BitVec.ofNat 16 n))) ∧
  assemble .reset = some .reset

/-! ## What every response is -/

/-- Every answer to every request, in every state, is one of the response words the block can produce (R35), a range only
with ends the formulas of R51 to R56 give, and `UNC` is 1 exactly when the code is `UNCORRECTABLE` or `UNRECOGNIZED`. -/
def Obligations.EveryAnswerIsLegal : Prop :=
  ∀ (s : State) (q : Req) (w : Rsp), Answers s q w →
    legalResponse w = true ∧ (rspUnc w = 1#1 ↔ rspRc w = 2#3 ∨ rspRc w = 3#3)

/-- Which codes each operation can answer with (the column `returned by` of R35). -/
def Obligations.ResultCodesByOperation : Prop :=
  ∀ (s : State) (q : Req) (w : Rsp), Answers s q w →
    (q.toNat / 2 ^ 22 = 0 → (rspRc w).toNat ≤ 3) ∧
    (q.toNat / 2 ^ 22 = 1 ∨ q.toNat / 2 ^ 22 = 2 → (rspRc w).toNat = 4 ∨ (rspRc w).toNat = 5) ∧
    (q.toNat / 2 ^ 22 = 3 → (rspRc w).toNat = 6 ∨ (rspRc w).toNat = 7)

/-- The response is a function of `CFG` and the request word alone: states with the same `CFG` answer alike, whatever the
host has read before or will issue next. -/
def Obligations.ResponseDependsOnCfgAndWordOnly : Prop :=
  ∀ (s t : State) (q : Req) (w : Rsp), s.cfg = t.cfg → (Answers s q w ↔ Answers t q w)

/-- `DEC`, `ECCR` and `FREER` write no state: after their step `CFG` is as it was, and so is what the host still has to
issue, in every state and whatever is answered. -/
def Obligations.PureOperationsLeaveCfg : Prop :=
  ∀ (s t : State) (q : Req) (rest : List HostEvent), q.toNat < 0xC00000 →
    step { s with pending := .request q :: rest } = .next t → t.cfg = s.cfg ∧ t.pending = rest

/-- An error answer leaves `CFG` exactly as it was, whichever operation gave it, and the same request repeated at once
gives the same error. -/
def Obligations.ErrorsLeaveNoTrace : Prop :=
  ∀ (s t : State) (q : Req) (w : Rsp), step (issueFirst q s) = .next t → t.responses = s.responses ++ [w] →
    (rspRc w = 2#3 ∨ rspRc w = 3#3 ∨ rspRc w = 5#3) → t.cfg = s.cfg ∧ Answers t q w

/-- `DEC`, `ECCR` and `FREER` are idempotent: repeated at once with the same word they answer the same. `LDCFG` is not: a
second one is ignored whatever the first was. -/
def Obligations.RepeatedRequests : Prop :=
  ∀ (s t : State) (q : Req) (w : Rsp), Answers s q w → step (issueFirst q s) = .next t →
    (q.toNat < 0xC00000 → Answers t q w) ∧
    (0xC00000 ≤ q.toNat → ∀ q' : Req, 0xC00000 ≤ q'.toNat → Answers t q' 0xE00000000#36)

/-- Before configuration every `DEC` is `UNRECOGNIZED` and every `ECCR` and `FREER` is `OUT_OF_RANGE`, whatever the other
fields of `CFG` hold. -/
def Obligations.UnconfiguredAnswersFirst : Prop :=
  ∀ (s : State) (q : Req), s.cfg.toNat < 0x80000 →
    (q.toNat < 0x400000 → Answers s q 0x700000000#36) ∧
    (0x400000 ≤ q.toNat → q.toNat < 0xC00000 → Answers s q 0xA00000000#36)

/-! ## The decoder -/

/-- `DEC` answers `CLEAN` only when configured and only for the clean pattern of the configured variant: `STATUS[6:4] = 0`
under Variant A, `STATUS[7:4] = PB_CLEAN` under Variant B. -/
def Obligations.CleanOnlyForTheCleanPattern : Prop :=
  ∀ (s : State) (status : Status), Answers s (encodeRequest (.dec status)) 0x000000000#36 ↔
    (0x80000 ≤ s.cfg.toNat ∧ s.cfg.toNat / 2 ^ 18 % 2 = 0 ∧ status.toNat / 16 % 8 = 0) ∨
    (0x80000 ≤ s.cfg.toNat ∧ s.cfg.toNat / 2 ^ 18 % 2 = 1 ∧ status.toNat / 16 = paramsB.pbClean.toNat)

/-- What the decoder's answer does not depend on: `LAYOUT`, `OOBSZ` and bits [3:0] under either variant, and bit 7 under
Variant A; under Variant B bit 7 does matter, for some byte. -/
def Obligations.DecReadsOnlyItsMask : Prop :=
  (∀ (s t : State) (a b : Status) (w : Rsp), variant s.cfg = .a → variant t.cfg = .a →
    a.toNat / 16 % 8 = b.toNat / 16 % 8 →
    (Answers s (encodeRequest (.dec a)) w ↔ Answers t (encodeRequest (.dec b)) w)) ∧
  (∀ (s t : State) (a b : Status) (w : Rsp), variant s.cfg = .b → variant t.cfg = .b →
    a.toNat / 16 = b.toNat / 16 →
    (Answers s (encodeRequest (.dec a)) w ↔ Answers t (encodeRequest (.dec b)) w)) ∧
  (∀ s : State, variant s.cfg = .b → ∃ (a : Status) (w : Rsp),
    Answers s (encodeRequest (.dec a)) w ∧ ¬ Answers s (encodeRequest (.dec (a ^^^ 0x80#8))) w)

/-- For every well-formed assignment of the parameters exactly three of Variant A's eight patterns and exactly eleven of
Variant B's sixteen are unrecognized. -/
def Obligations.UnrecognizedPatternCounts : Prop :=
  (∀ k : VariantAParams, k.wellFormed = true →
    ((List.range 8).filter fun n => tableA k (BitVec.ofNat 3 n) == .unrecognized).length = 3) ∧
  (∀ k : VariantBParams, k.wellFormed = true →
    ((List.range 16).filter fun n => tableB k (BitVec.ofNat 4 n) == .unrecognized).length = 11)

/-- The whole of Variant A under the spec's default parameters `PA3 = 0b001`, `PA6 = 0b011`, pattern by pattern: the table
after R41. The defaults (decision D11) are an argument here: the block itself is not tied to them. -/
def Obligations.VariantAUnderTheDefaults : Prop :=
  (VariantAParams.mk 0b001#3 0b011#3).wellFormed = true ∧
  [0, 1, 2, 3, 4, 5, 6, 7].map (fun n => tableA ⟨0b001#3, 0b011#3⟩ (BitVec.ofNat 3 n)) =
    [.clean, .corrected .upTo3, .uncorrectable, .corrected .upTo6, .unrecognized, .corrected .upTo8,
     .unrecognized, .unrecognized]

/-! ## The mapper (spec/20_memory.md, 41_oob_map.md) -/

/-- `ECCR i` and `FREER i` answer `OUT_OF_RANGE` exactly when `i` is at or beyond the region count of the layout, and
otherwise both answer a range; the count is 4, 1, 1 or 0. -/
def Obligations.IndexIsValidExactlyBelowTheCount : Prop :=
  ∀ (s : State) (index : Index),
    let count := match layout s.cfg with | .l4 => 4 | .l1f => 1 | .lp => 1 | .z => 0
    ∀ r ∈ [Request.eccr index, Request.freer index],
      (Answers s (encodeRequest r) 0xA00000000#36 ↔ count ≤ index.toNat) ∧
      ((∃ a b : Offset, Answers s (encodeRequest r) (packResponse 4#3 0#1 a b)) ↔ index.toNat < count)

/-- The ECC range and the free range of one index never overlap, for every `CFG`, well-formed or not, and the free range
ends exactly where the ECC range begins. -/
def Obligations.EccAndFreeRangesAdjacentAndDisjoint : Prop :=
  ∀ (s : State) (index : Index) (e f : Range),
    Answers s (encodeRequest (.eccr index)) (packResponse 4#3 0#1 e.start e.stop) →
    Answers s (encodeRequest (.freer index)) (packResponse 4#3 0#1 f.start f.stop) →
    f.stop = e.start ∧ ∀ b : Nat, ¬ (rangeHas e b = true ∧ rangeHas f b = true)

/-- Under layout L4 no two ranges of different indices overlap, of either kind: region `i` stays within
`[16i, 16i+16)`. -/
def Obligations.L4RegionsStayApart : Prop :=
  ∀ (s : State) (i j : Index) (r t : Range), layout s.cfg = .l4 → i ≠ j →
    (∃ q ∈ [Request.eccr i, Request.freer i], Answers s (encodeRequest q) (packResponse 4#3 0#1 r.start r.stop)) →
    (∃ q ∈ [Request.eccr j, Request.freer j], Answers s (encodeRequest q) (packResponse 4#3 0#1 t.start t.stop)) →
    (16 * i.toNat ≤ r.start.toNat ∧ r.stop.toNat ≤ 16 * i.toNat + 16) ∧
    ∀ b : Nat, ¬ (rangeHas r b = true ∧ rangeHas t b = true)

/-- The mapper's answers are the spare-area maps of R24, R25 and R26: a byte is in the range answered for `ECCR i` exactly
when the map gives it to ECC region `i`, and in the range answered for `FREER i` exactly when the map gives it to free
region `i`; for every `CFG`, index and byte. -/
def Obligations.MapperAgreesWithTheSpareAreaMaps : Prop :=
  ∀ (s : State) (index : Index) (b : Nat),
    ((∃ r : Range, Answers s (encodeRequest (.eccr index)) (packResponse 4#3 0#1 r.start r.stop) ∧
        rangeHas r b = true) ↔ isEccByte s.cfg index.toNat b = true) ∧
    ((∃ r : Range, Answers s (encodeRequest (.freer index)) (packResponse 4#3 0#1 r.start r.stop) ∧
        rangeHas r b = true) ↔ isFreeByte s.cfg index.toNat b = true)

/-- Under each of the three layouts, `WF(CFG)` holds exactly when every range the mapper answers, of either kind and for
every index, is not inverted and lies inside the spare area. (With no regions at all, layout Z, there is no range to
look at and `WF` is false: R29's words are about a layout with regions, log 17.) -/
def Obligations.WellFormedGeometryIsContainment : Prop :=
  ∀ s : State, layout s.cfg ≠ .z →
    (wellFormedGeometry s.cfg = true ↔
      ∀ (index : Index) (r : Range),
        (Answers s (encodeRequest (.eccr index)) (packResponse 4#3 0#1 r.start r.stop) ∨
         Answers s (encodeRequest (.freer index)) (packResponse 4#3 0#1 r.start r.stop)) →
        r.start.toNat ≤ r.stop.toNat ∧ r.stop.toNat ≤ s.cfg.toNat % 65536)

/-- No range the mapper answers holds a byte reserved for the bad-block marker, under L1F for every `CFG` and under LP for
every size of at least 4; under LP with a size of 1 to 3 the ECC range does hold one. -/
def Obligations.MarkerBytesStayReserved : Prop :=
  (∀ (s : State) (q : Req) (r : Range) (b : Nat), Answers s q (packResponse 4#3 0#1 r.start r.stop) →
    rangeHas r b = true →
    (layout s.cfg = .l1f → b ≠ 0) ∧ (layout s.cfg = .lp → 4 ≤ s.cfg.toNat % 65536 → b ≠ 0 ∧ b ≠ 1)) ∧
  (∀ s : State, layout s.cfg = .lp → 1 ≤ s.cfg.toNat % 65536 → s.cfg.toNat % 65536 ≤ 3 →
    ∃ (r : Range) (b : Nat), Answers s (encodeRequest (.eccr 0#22)) (packResponse 4#3 0#1 r.start r.stop) ∧
      rangeHas r b = true ∧ b ≤ 1)

/-- Under `WF(CFG)` the length `B - A` of a range does not wrap, and it is 8 and 6 under L4, 64 and 63 under L1F,
`o - (o >> 1)` and `(o >> 1) - 2` under LP. -/
def Obligations.RangeLengthsDoNotWrap : Prop :=
  ∀ (s : State) (index : Index) (e f : Range), wellFormedGeometry s.cfg = true →
    Answers s (encodeRequest (.eccr index)) (packResponse 4#3 0#1 e.start e.stop) →
    Answers s (encodeRequest (.freer index)) (packResponse 4#3 0#1 f.start f.stop) →
    e.start.toNat ≤ e.stop.toNat ∧ f.start.toNat ≤ f.stop.toNat ∧
    ((e.stop - e.start).toNat, (f.stop - f.start).toNat) =
      (match layout s.cfg with
       | .l4 => (8, 6)
       | .l1f => (64, 63)
       | .lp => (s.cfg.toNat % 65536 - s.cfg.toNat % 65536 / 2, s.cfg.toNat % 65536 / 2 - 2)
       | .z => (0, 0))

/-- The mapper's answer never depends on `ECCV`, and under L4, L1F and Z not on `OOBSZ` either. -/
def Obligations.MapperReadsOnlyItsFields : Prop :=
  ∀ (s t : State) (q : Req) (w : Rsp), 0x400000 ≤ q.toNat → q.toNat < 0xC00000 →
    layout s.cfg = layout t.cfg →
    (layout s.cfg = .lp → s.cfg.toNat % 65536 = t.cfg.toNat % 65536) →
    (Answers s q w ↔ Answers t q w)
end

