-- ==== Sys2Proof/Laws/Words.lean ====
section
/-! SUPPORT. Words as numbers: every field of a word, and every word written out as its fields, as a natural number, so that
facts about fields are closed by linear arithmetic. -/

namespace Sys2Proof.Machine

/-- A concatenation as a number. -/
theorem toNat_append_add {m n : Nat} (x : BitVec m) (y : BitVec n) :
    (x ++ y).toNat = x.toNat * 2 ^ n + y.toNat := by
  rw [BitVec.toNat_append, ← Nat.shiftLeft_add_eq_or_of_lt y.isLt, Nat.shiftLeft_eq]

/-- A slice as a number. -/
theorem toNat_slice {n : Nat} (w : BitVec n) (lo len : Nat) :
    (w.extractLsb' lo len).toNat = w.toNat / 2 ^ lo % 2 ^ len := by
  rw [BitVec.extractLsb'_toNat, Nat.shiftRight_eq_div_pow]

/-! ## Fields -/

theorem cfgEccv_toNat (c : Cfg) : (cfgEccv c).toNat = c.toNat / 2 ^ 18 % 2 := toNat_slice c 18 1
theorem cfgLayout_toNat (c : Cfg) : (cfgLayout c).toNat = c.toNat / 2 ^ 16 % 4 := toNat_slice c 16 2
theorem cfgOobsz_toNat (c : Cfg) : (cfgOobsz c).toNat = c.toNat % 2 ^ 16 := by
  rw [cfgOobsz, toNat_slice]; simp

/-- `VALID` is the highest bit of `CFG` (R11). -/
theorem cfgValid_iff (c : Cfg) : cfgValid c = true ↔ 2 ^ 19 ≤ c.toNat := by
  have h := c.isLt
  rw [cfgValid, BitVec.getLsbD, Nat.testBit_eq_decide_div_mod_eq]
  simp only [decide_eq_true_eq]
  omega

theorem cfgValid_eq_false_iff (c : Cfg) : cfgValid c = false ↔ c.toNat < 2 ^ 19 := by
  rw [← Bool.not_eq_true, cfgValid_iff]; omega

theorem reqOp_toNat (w : Req) : (reqOp w).toNat = w.toNat / 2 ^ 22 := by
  have h := w.isLt
  rw [reqOp, toNat_slice]; omega
theorem reqStatus_toNat (w : Req) : (reqStatus w).toNat = w.toNat % 2 ^ 8 := by
  rw [reqStatus, toNat_slice]; simp
theorem reqIndex_toNat (w : Req) : (reqIndex w).toNat = w.toNat % 2 ^ 22 := by
  rw [reqIndex, toNat_slice]; simp
theorem reqEccv_toNat (w : Req) : (reqEccv w).toNat = w.toNat / 2 ^ 18 % 2 := toNat_slice w 18 1
theorem reqLayout_toNat (w : Req) : (reqLayout w).toNat = w.toNat / 2 ^ 16 % 4 := toNat_slice w 16 2
theorem reqOobsz_toNat (w : Req) : (reqOobsz w).toNat = w.toNat % 2 ^ 16 := by
  rw [reqOobsz, toNat_slice]; simp

theorem rspRc_toNat (w : Rsp) : (rspRc w).toNat = w.toNat / 2 ^ 33 := by
  have h := w.isLt
  rw [rspRc, toNat_slice]; omega
theorem rspUnc_toNat (w : Rsp) : (rspUnc w).toNat = w.toNat / 2 ^ 32 % 2 := toNat_slice w 32 1
theorem rspA_toNat (w : Rsp) : (rspA w).toNat = w.toNat / 2 ^ 16 % 2 ^ 16 := toNat_slice w 16 16
theorem rspB_toNat (w : Rsp) : (rspB w).toNat = w.toNat % 2 ^ 16 := by
  rw [rspB, toNat_slice]; simp

theorem patternA_of_status_toNat (status : Status) :
    (status.extractLsb' 4 3).toNat = status.toNat / 16 % 8 := toNat_slice status 4 3
theorem patternB_of_status_toNat (status : Status) :
    (status.extractLsb' 4 4).toNat = status.toNat / 16 := by
  have h := status.isLt
  rw [toNat_slice]; omega

/-! ## Words written out as their fields -/

/-- `CFG` as a number (R11). -/
theorem cfgOfFields_toNat (v e : BitVec 1) (l : BitVec 2) (o : Offset) :
    (cfgOfFields v e l o).toNat = v.toNat * 2 ^ 19 + e.toNat * 2 ^ 18 + l.toNat * 2 ^ 16 + o.toNat := by
  have h : (cfgOfFields v e l o).toNat = ((v.toNat * 2 ^ 1 + e.toNat) * 2 ^ 2 + l.toNat) * 2 ^ 16 + o.toNat := by
    rw [← toNat_append_add, ← toNat_append_add, ← toNat_append_add]; rfl
  rw [h]; ring

/-- A response word as a number (R34). -/
theorem packResponse_toNat (rc : BitVec 3) (u : BitVec 1) (a b : Offset) :
    (packResponse rc u a b).toNat =
      rc.toNat * 2 ^ 33 + u.toNat * 2 ^ 32 + a.toNat * 2 ^ 16 + b.toNat := by
  have h : (packResponse rc u a b).toNat =
      ((rc.toNat * 2 ^ 1 + u.toNat) * 2 ^ 16 + a.toNat) * 2 ^ 16 + b.toNat := by
    rw [← toNat_append_add, ← toNat_append_add, ← toNat_append_add]; rfl
  rw [h]; ring

/-- A request word of format S as a number (R33). -/
theorem formatS_toNat (op : BitVec 2) (x : BitVec 14) (status : Status) :
    (op ++ x ++ status : Req).toNat = op.toNat * 2 ^ 22 + x.toNat * 2 ^ 8 + status.toNat := by
  have h : (op ++ x ++ status : Req).toNat = (op.toNat * 2 ^ 14 + x.toNat) * 2 ^ 8 + status.toNat := by
    rw [← toNat_append_add, ← toNat_append_add]
  rw [h]; ring

/-- A request word of format X as a number (R33). -/
theorem formatX_toNat (op : BitVec 2) (index : Index) :
    (op ++ index : Req).toNat = op.toNat * 2 ^ 22 + index.toNat := toNat_append_add op index

/-- A request word of format C as a number (R33). -/
theorem formatC_toNat (op : BitVec 2) (x : BitVec 3) (v : BitVec 1) (l : BitVec 2) (o : Offset) :
    (op ++ x ++ v ++ l ++ o : Req).toNat =
      op.toNat * 2 ^ 22 + x.toNat * 2 ^ 19 + v.toNat * 2 ^ 18 + l.toNat * 2 ^ 16 + o.toNat := by
  have h : (op ++ x ++ v ++ l ++ o : Req).toNat =
      (((op.toNat * 2 ^ 3 + x.toNat) * 2 ^ 1 + v.toNat) * 2 ^ 2 + l.toNat) * 2 ^ 16 + o.toNat := by
    rw [← toNat_append_add, ← toNat_append_add, ← toNat_append_add, ← toNat_append_add]
  rw [h]; ring

@[simp] theorem cfgValid_cfgOfFields (v e : BitVec 1) (l : BitVec 2) (o : Offset) :
    cfgValid (cfgOfFields v e l o) = true ↔ v = 1#1 := by
  have h1 := v.isLt
  have h2 := e.isLt
  have h3 := l.isLt
  have h4 := o.isLt
  rw [cfgValid_iff, cfgOfFields_toNat, ← BitVec.toNat_inj]
  simp only [BitVec.toNat_ofNat]
  omega

@[simp] theorem cfgEccv_cfgOfFields (v e : BitVec 1) (l : BitVec 2) (o : Offset) :
    cfgEccv (cfgOfFields v e l o) = e := by
  have h2 := e.isLt
  have h3 := l.isLt
  have h4 := o.isLt
  rw [← BitVec.toNat_inj, cfgEccv_toNat, cfgOfFields_toNat]
  omega

@[simp] theorem cfgLayout_cfgOfFields (v e : BitVec 1) (l : BitVec 2) (o : Offset) :
    cfgLayout (cfgOfFields v e l o) = l := by
  have h3 := l.isLt
  have h4 := o.isLt
  rw [← BitVec.toNat_inj, cfgLayout_toNat, cfgOfFields_toNat]
  omega

@[simp] theorem cfgOobsz_cfgOfFields (v e : BitVec 1) (l : BitVec 2) (o : Offset) :
    cfgOobsz (cfgOfFields v e l o) = o := by
  have h4 := o.isLt
  rw [← BitVec.toNat_inj, cfgOobsz_toNat, cfgOfFields_toNat]
  omega

@[simp] theorem rspRc_packResponse (rc : BitVec 3) (u : BitVec 1) (a b : Offset) :
    rspRc (packResponse rc u a b) = rc := by
  have h1 := u.isLt
  have h2 := a.isLt
  have h3 := b.isLt
  rw [← BitVec.toNat_inj, rspRc_toNat, packResponse_toNat]
  omega

@[simp] theorem rspUnc_packResponse (rc : BitVec 3) (u : BitVec 1) (a b : Offset) :
    rspUnc (packResponse rc u a b) = u := by
  have h1 := u.isLt
  have h2 := a.isLt
  have h3 := b.isLt
  rw [← BitVec.toNat_inj, rspUnc_toNat, packResponse_toNat]
  omega

@[simp] theorem rspA_packResponse (rc : BitVec 3) (u : BitVec 1) (a b : Offset) :
    rspA (packResponse rc u a b) = a := by
  have h2 := a.isLt
  have h3 := b.isLt
  rw [← BitVec.toNat_inj, rspA_toNat, packResponse_toNat]
  omega

@[simp] theorem rspB_packResponse (rc : BitVec 3) (u : BitVec 1) (a b : Offset) :
    rspB (packResponse rc u a b) = b := by
  have h3 := b.isLt
  rw [← BitVec.toNat_inj, rspB_toNat, packResponse_toNat]
  omega

/-! ## The two coded fields, and ranges -/

theorem variantOfBits_variantBits (v : EccVariant) : variantOfBits (variantBits v) = v := by
  cases v <;> rfl

theorem layoutOfBits_layoutBits (l : LayoutCode) : layoutOfBits (layoutBits l) = l := by
  cases l <;> rfl

theorem variantBits_variantOfBits (v : BitVec 1) : variantBits (variantOfBits v) = v := by
  revert v; decide

theorem layoutBits_layoutOfBits (l : BitVec 2) : layoutBits (layoutOfBits l) = l := by
  revert l; decide

/-- Two ranges overlap exactly when the sets they denote share a byte (R7). -/
theorem rangesOverlap_iff (r t : Range) :
    rangesOverlap r t = true ↔ ∃ b, rangeHas r b = true ∧ rangeHas t b = true := by
  simp only [rangesOverlap, rangeHas, decide_eq_true_eq]
  constructor
  · intro h
    exact ⟨max r.start.toNat t.start.toNat, by omega, by omega⟩
  · rintro ⟨b, h1, h2⟩
    omega

end Sys2Proof.Machine
end

