-- ==== Sys2Proof/Laws/Ops.lean ====
section
/-! SUPPORT. What the shared operations of the decoder and the mapper can do, said once each. -/

namespace Sys2Proof.Machine

/-- Every assignment is made well-formed (R5). -/
theorem fixA_wellFormed (k : VariantAParams) : (fixA k).wellFormed = true := by
  rw [fixA]
  split
  · assumption
  · decide

/-- A well-formed assignment is left as it is, so every well-formed assignment is possible (R5). -/
theorem fixA_of_wellFormed {k : VariantAParams} (h : k.wellFormed = true) : fixA k = k := by
  simp [fixA, h]

/-- Every assignment is made well-formed (R5). -/
theorem fixB_wellFormed (k : VariantBParams) : (fixB k).wellFormed = true := by
  rw [fixB]
  split
  · assumption
  · decide

/-- A well-formed assignment is left as it is, so every well-formed assignment is possible (R5). -/
theorem fixB_of_wellFormed {k : VariantBParams} (h : k.wellFormed = true) : fixB k = k := by
  simp [fixB, h]

/-- The block is built with a well-formed assignment of Variant A (R5). -/
theorem paramsA_wellFormed : paramsA.wellFormed = true := fixA_wellFormed _

/-- The block is built with a well-formed assignment of Variant B (R5). -/
theorem paramsB_wellFormed : paramsB.wellFormed = true := fixB_wellFormed _

/-- A well-formed assignment keeps clear of the pinned and the unused patterns of Variant A (R5). -/
theorem paramsA_ne {k : VariantAParams} (h : k.wellFormed = true) :
    (k.pa3 ≠ 0b000#3 ∧ k.pa3 ≠ 0b010#3 ∧ k.pa3 ≠ 0b101#3 ∧ k.pa3 ≠ 0b110#3) ∧
    (k.pa6 ≠ 0b000#3 ∧ k.pa6 ≠ 0b010#3 ∧ k.pa6 ≠ 0b101#3 ∧ k.pa6 ≠ 0b110#3) ∧ k.pa3 ≠ k.pa6 := by
  obtain ⟨p, q⟩ := k
  revert p q
  decide

/-- The index check answers a range exactly for an index below the count, and then the given range (R50). -/
theorem checkIndex_eq_ok_iff {count : Nat} {index : Index} {r t : Range} :
    checkIndex count index r = .ok t ↔ index.toNat < count ∧ t = r := by
  rw [checkIndex]
  split
  · simp only [outOfRange, reduceCtorEq, false_iff]; omega
  · simp only [RangeResult.ok.injEq]
    constructor
    · intro h; exact ⟨by omega, h.symm⟩
    · intro h; exact h.2.symm

/-- The index check answers the error exactly at or beyond the count (R50, R58). -/
theorem checkIndex_eq_error_iff {count : Nat} {index : Index} {r : Range} :
    checkIndex count index r = outOfRange ↔ count ≤ index.toNat := by
  rw [checkIndex]
  split
  · simpa
  · simp only [outOfRange, reduceCtorEq, false_iff]; omega

/-- The index check on a valid index (R50). -/
theorem checkIndex_of_lt {count : Nat} {index : Index} (h : index.toNat < count) (r : Range) :
    checkIndex count index r = .ok r := checkIndex_eq_ok_iff.2 ⟨h, rfl⟩

/-- The index check on an invalid index (R50, R58). -/
theorem checkIndex_of_le {count : Nat} {index : Index} (h : count ≤ index.toNat) (r : Range) :
    checkIndex count index r = outOfRange := checkIndex_eq_error_iff.2 h

/-- The region number of a valid index of L4 is the index (R51). -/
theorem regionOf_toNat {index : Index} (h : index.toNat < 4) : (regionOf index).toNat = index.toNat := by
  have e : (index.extractLsb' 0 2).toNat = index.toNat % 4 := by rw [toNat_slice]; simp
  rw [regionOf, BitVec.toNat_setWidth, e]
  omega

/-- The ECC range of a valid index of L4, as numbers: nothing wraps (R51, R60). -/
theorem eccRangeL4_toNat {index : Index} (h : index.toNat < 4) :
    (eccRangeL4 index).start.toNat = 16 * index.toNat + 8 ∧
    (eccRangeL4 index).stop.toNat = 16 * index.toNat + 16 := by
  simp only [eccRangeL4, BitVec.toNat_add, BitVec.toNat_mul, BitVec.toNat_ofNat, regionOf_toNat h]
  omega

/-- The free range of a valid index of L4, as numbers: nothing wraps (R52, R60). -/
theorem freeRangeL4_toNat {index : Index} (h : index.toNat < 4) :
    (freeRangeL4 index).start.toNat = 16 * index.toNat + 2 ∧
    (freeRangeL4 index).stop.toNat = 16 * index.toNat + 8 := by
  simp only [freeRangeL4, BitVec.toNat_add, BitVec.toNat_mul, BitVec.toNat_ofNat, regionOf_toNat h]
  omega

/-- Half of the spare-area size, rounded down (R60). -/
theorem half_toNat (o : Offset) : (o >>> 1).toNat = o.toNat / 2 := by
  rw [BitVec.toNat_ushiftRight, Nat.shiftRight_eq_div_pow]

end Sys2Proof.Machine
end

