-- ==== Sys2Proof/Laws/State.lean ====
section
/-! SUPPORT. The small lemmas of the state: one per field per update, so that no proof unfolds a record update, and what
each shared operation of `Machine/Ops.lean` does. -/

namespace Sys2Proof.Machine

@[simp] theorem State.withCfg_cfg (s : State) (c : Cfg) : (s.withCfg c).cfg = c := rfl
@[simp] theorem State.withCfg_pending (s : State) (c : Cfg) : (s.withCfg c).pending = s.pending := rfl
@[simp] theorem State.withCfg_responses (s : State) (c : Cfg) : (s.withCfg c).responses = s.responses := rfl

@[simp] theorem State.withPending_cfg (s : State) (es : List HostEvent) : (s.withPending es).cfg = s.cfg := rfl
@[simp] theorem State.withPending_pending (s : State) (es : List HostEvent) :
    (s.withPending es).pending = es := rfl
@[simp] theorem State.withPending_responses (s : State) (es : List HostEvent) :
    (s.withPending es).responses = s.responses := rfl

@[simp] theorem State.withResponse_cfg (s : State) (w : Rsp) : (s.withResponse w).cfg = s.cfg := rfl
@[simp] theorem State.withResponse_pending (s : State) (w : Rsp) :
    (s.withResponse w).pending = s.pending := rfl
@[simp] theorem State.withResponse_responses (s : State) (w : Rsp) :
    (s.withResponse w).responses = s.responses ++ [w] := rfl

@[simp] theorem applyReset_cfg (s : State) : (applyReset s).cfg = 0#20 := rfl
@[simp] theorem applyReset_pending (s : State) : (applyReset s).pending = s.pending := rfl
@[simp] theorem applyReset_responses (s : State) : (applyReset s).responses = s.responses := rfl

@[simp] theorem loadCfg_cfg (v : BitVec 1) (l : BitVec 2) (o : Offset) (s : State) :
    (loadCfg v l o s).cfg = cfgOfFields 1#1 v l o := rfl
@[simp] theorem loadCfg_pending (v : BitVec 1) (l : BitVec 2) (o : Offset) (s : State) :
    (loadCfg v l o s).pending = s.pending := rfl
@[simp] theorem loadCfg_responses (v : BitVec 1) (l : BitVec 2) (o : Offset) (s : State) :
    (loadCfg v l o s).responses = s.responses := rfl

/-- All that answering does: if it answers a next state, that state has one more response word and nothing else new. -/
theorem answer_next {r : Response} {s t : State} (h : answer r s = .next t) :
    t = s.withResponse (responseWord r) := by
  injection h with h
  exact h.symm

/-- Answering always answers a next state. -/
theorem answer_eq (r : Response) (s : State) : answer r s = .next (s.withResponse (responseWord r)) := rfl

end Sys2Proof.Machine
end

