-- ==== Sys2Proof/Laws/Step.lean ====
section
/-! SUPPORT. What one step can do, said once. -/

namespace Sys2Proof.Machine

/-- The step when the run is over. -/
theorem step_idle {s : State} (h : s.pending = []) : step s = .next s := by
  simp [step, nextEvent, h]

/-- The step on a `RESET`. -/
theorem step_reset {s : State} {rest : List HostEvent} (h : s.pending = .reset :: rest) :
    step s = .next (applyReset (s.withPending rest)) := by
  simp [step, nextEvent, takeEvent, h]

/-- The step on a request word. -/
theorem step_request {s : State} {w : Req} {rest : List HostEvent} (h : s.pending = .request w :: rest) :
    step s = exec (decode s.cfg w) (s.withPending rest) := by
  simp [step, nextEvent, takeEvent, instrOf, h]

/-- The step on a request that the host issues first. -/
theorem step_issueFirst (w : Req) (s : State) : step (issueFirst w s) = exec (decode s.cfg w) s :=
  step_request (s := issueFirst w s) rfl

/-- What any instruction can do: it answers one response word, and only an `LDCFG` before configuration writes `CFG`. -/
theorem exec_cases (i : Instr) (s : State) :
    (∃ r, exec i s = .next (s.withResponse (responseWord r))) ∨
    (∃ v l size, i = .ldcfg v l size ∧ cfgValid s.cfg = false ∧
      exec i s = .next ((loadCfg (variantBits v) (layoutBits l) size s).withResponse
        (responseWord (.cfg .accepted)))) := by
  cases i with
  | ldcfg v l size =>
    by_cases h : cfgValid s.cfg = true
    · exact .inl ⟨.cfg .ignored, by simp [exec, execLdcfg, h, answer_eq]⟩
    · simp only [Bool.not_eq_true] at h
      exact .inr ⟨v, l, size, rfl, h, by simp [exec, execLdcfg, h, answer_eq]⟩
  | _ => exact .inl ⟨_, rfl⟩

end Sys2Proof.Machine
end

