-- ==== Sys2Proof/Laws/Answers.lean ====
section
/-! SUPPORT. Every instruction as one equation, and what the block answers to a request. -/

namespace Sys2Proof.Machine

/-- The result a row answers under a configuration. -/
def rowResponse (c : Cfg) : Instr → Response
  | .decA status => .ecc (tableA paramsA (patternA status))
  | .decB status => .ecc (tableB paramsB (patternB status))
  | .decU _ => .ecc .unrecognized
  | .eccrL4 index => .range (checkIndex (regionCount .l4) index (eccRangeL4 index))
  | .eccrL1F index => .range (checkIndex (regionCount .l1f) index eccRangeL1F)
  | .eccrLP index => .range (checkIndex (regionCount .lp) index (eccRangeLP (cfgOobsz c)))
  | .eccrZ _ => .range outOfRange
  | .freerL4 index => .range (checkIndex (regionCount .l4) index (freeRangeL4 index))
  | .freerL1F index => .range (checkIndex (regionCount .l1f) index freeRangeL1F)
  | .freerLP index => .range (checkIndex (regionCount .lp) index (freeRangeLP (cfgOobsz c)))
  | .freerZ _ => .range outOfRange
  | .ldcfg _ _ _ => .cfg (if cfgValid c then .ignored else .accepted)

/-- `CFG` after a row. -/
def rowCfg (c : Cfg) : Instr → Cfg
  | .ldcfg v l size => if cfgValid c then c else cfgOfFields 1#1 (variantBits v) (layoutBits l) size
  | _ => c

/-- Every instruction answers a next state, and all it does is this. -/
theorem exec_eq (i : Instr) (s : State) :
    exec i s = .next ((s.withCfg (rowCfg s.cfg i)).withResponse (responseWord (rowResponse s.cfg i))) := by
  cases i with
  | ldcfg v l size =>
    by_cases h : cfgValid s.cfg = true
    · simp [exec, execLdcfg, answer, rowCfg, rowResponse, h]
      rfl
    · simp [exec, execLdcfg, answer, rowCfg, rowResponse, loadCfg, h]
  | _ => rfl

/-- What the block answers to a request word. -/
theorem answers_iff {s : State} {q : Req} {w : Rsp} :
    Answers s q w ↔ w = responseWord (rowResponse s.cfg (decode s.cfg q)) := by
  rw [Answers, step_issueFirst, exec_eq]
  constructor
  · rintro ⟨t, h, hr⟩
    injection h with h
    subst h
    simpa using hr.symm
  · rintro rfl
    exact ⟨_, rfl, by simp⟩

end Sys2Proof.Machine
end

