-- ==== Sys2Proof/Laws/PerInstr.lean ====
section
/-! SUPPORT. Facts about every instruction as a piece of text, one lemma per constructor. -/

namespace Sys2Proof.Laws.EncodedOp

/-- The `OP` code of an instruction's operation (spec/30_encoding.md R32). -/
def opOf : Instr → BitVec 2
  | .decA _ => 0#2
  | .decB _ => 0#2
  | .decU _ => 0#2
  | .eccrL4 _ => 1#2
  | .eccrL1F _ => 1#2
  | .eccrLP _ => 1#2
  | .eccrZ _ => 1#2
  | .freerL4 _ => 2#2
  | .freerL1F _ => 2#2
  | .freerLP _ => 2#2
  | .freerZ _ => 2#2
  | .ldcfg _ _ _ => 3#2

/-- The word an instruction is encoded as holds its operation's code in bits [23:22] (R32). -/
def Statement (i : Instr) : Prop := Machine.reqOp (encode i) = opOf i

/-- The operation's code of a word written as a code and 22 operand bits. -/
theorem reqOp_append (op : BitVec 2) (x : BitVec 22) : Machine.reqOp (op ++ x) = op := by
  have h := x.isLt
  rw [← BitVec.toNat_inj, Machine.reqOp_toNat, Machine.formatX_toNat]
  omega

/-- The operation's code of a word of format S. -/
theorem reqOp_formatS (op : BitVec 2) (x : BitVec 14) (status : Status) :
    Machine.reqOp (op ++ x ++ status) = op := by
  have h1 := x.isLt
  have h2 := status.isLt
  rw [← BitVec.toNat_inj, Machine.reqOp_toNat, Machine.formatS_toNat]
  omega

/-- The operation's code of a word of format C. -/
theorem reqOp_formatC (op : BitVec 2) (x : BitVec 3) (v : BitVec 1) (l : BitVec 2) (size : Offset) :
    Machine.reqOp (op ++ x ++ v ++ l ++ size) = op := by
  have h1 := x.isLt
  have h2 := v.isLt
  have h3 := l.isLt
  have h4 := size.isLt
  rw [← BitVec.toNat_inj, Machine.reqOp_toNat, Machine.formatC_toNat]
  omega

theorem decA (status : Status) : Statement (.decA status) := reqOp_formatS _ _ _
theorem decB (status : Status) : Statement (.decB status) := reqOp_formatS _ _ _
theorem decU (status : Status) : Statement (.decU status) := reqOp_formatS _ _ _
theorem eccrL4 (index : Index) : Statement (.eccrL4 index) := reqOp_append _ _
theorem eccrL1F (index : Index) : Statement (.eccrL1F index) := reqOp_append _ _
theorem eccrLP (index : Index) : Statement (.eccrLP index) := reqOp_append _ _
theorem eccrZ (index : Index) : Statement (.eccrZ index) := reqOp_append _ _
theorem freerL4 (index : Index) : Statement (.freerL4 index) := reqOp_append _ _
theorem freerL1F (index : Index) : Statement (.freerL1F index) := reqOp_append _ _
theorem freerLP (index : Index) : Statement (.freerLP index) := reqOp_append _ _
theorem freerZ (index : Index) : Statement (.freerZ index) := reqOp_append _ _
theorem ldcfg (v : EccVariant) (l : LayoutCode) (size : Offset) : Statement (.ldcfg v l size) :=
  reqOp_formatC _ _ _ _ _

end Sys2Proof.Laws.EncodedOp
end

