-- ==== Sys2Proof/Machine/Assembler.lean ====
section
/-! DEFINITION. The host's line form for requests and expected responses (spec/30_encoding.md R38, a notation; decision
D25). What R38 does not say of spaces and letter case is chosen here: DESIGN CHOICE, safe: log 16. -/

namespace Sys2Proof.Machine

/-- Add a finished word to a list of words, unless it is empty. -/
def addWord (word : List Char) (rest : List (List Char)) : List (List Char) :=
  if word.isEmpty then rest else word :: rest

/-- The words of a line: spaces part words, and a comma is a word of its own. `word` is the word being read. -/
def lineWords (word : List Char) : List Char → List (List Char)
  | [] => addWord word []
  | ' ' :: rest => addWord word (lineWords [] rest)
  | ',' :: rest => addWord word ([','] :: lineWords [] rest)
  | ch :: rest => lineWords (word ++ [ch]) rest

/-- The value of a digit in a base, `none` for any other character. -/
def digitValue (base : Nat) (ch : Char) : Option Nat :=
  let n := ch.toNat
  let v :=
    if '0'.toNat ≤ n ∧ n ≤ '9'.toNat then n - '0'.toNat
    else if 'a'.toNat ≤ n ∧ n ≤ 'f'.toNat then n - 'a'.toNat + 10
    else if 'A'.toNat ≤ n ∧ n ≤ 'F'.toNat then n - 'A'.toNat + 10
    else base
  if v < base then some v else none

/-- The value of a run of digits after `acc`. -/
def digitsValue (base acc : Nat) : List Char → Option Nat
  | [] => some acc
  | ch :: rest => (digitValue base ch).bind fun d => digitsValue base (base * acc + d) rest

/-- A number: decimal, or hexadecimal with `0x`, or binary with `0b` (R38). -/
def readNumber : List Char → Option Nat
  | [] => none
  | '0' :: 'x' :: d :: rest => digitsValue 16 0 (d :: rest)
  | '0' :: 'b' :: d :: rest => digitsValue 2 0 (d :: rest)
  | word => digitsValue 10 0 word

/-- A decoder variant's name (R38). -/
def readVariant (word : List Char) : Option EccVariant :=
  if word = "A".toList then some .a else if word = "B".toList then some .b else none

/-- A layout's name; `L3` spells the reserved code 3 (R38). -/
def readLayout (word : List Char) : Option LayoutCode :=
  if word = "L4".toList then some .l4
  else if word = "L1F".toList then some .l1f
  else if word = "LP".toList then some .lp
  else if word = "L3".toList then some .l3
  else none

/-- A request line from its words (R38). -/
def readRequestWords : List (List Char) → Option AsmLine
  | [name] => if name = "RESET".toList then some .reset else none
  | [name, n] =>
    (readNumber n).bind fun k =>
      if name = "DEC".toList then some (.dec k)
      else if name = "ECCR".toList then some (.eccr k)
      else if name = "FREER".toList then some (.freer k)
      else none
  | [name, v, [','], l, [','], n] =>
    if name = "LDCFG".toList then
      (readVariant v).bind fun vv => (readLayout l).bind fun ll => (readNumber n).bind fun k =>
        some (.ldcfg vv ll k)
    else none
  | _ => none

/-- A request line as text (R38): its numbers must be in range. -/
def readLine (text : String) : Option AsmLine :=
  (readRequestWords (lineWords [] text.toList)).bind fun line => if line.wellFormed then some line else none

/-- A response as its line form writes it, from its words (R38). -/
def readResponseWords : List (List Char) → Option Response
  | [name] =>
    if name = "CLEAN".toList then some (.ecc .clean)
    else if name = "UNCORRECTABLE".toList then some (.ecc .uncorrectable)
    else if name = "UNRECOGNIZED".toList then some (.ecc .unrecognized)
    else if name = "OUT_OF_RANGE".toList then some (.range (.error .outOfRange))
    else if name = "CFG_ACCEPTED".toList then some (.cfg .accepted)
    else if name = "CFG_IGNORED".toList then some (.cfg .ignored)
    else none
  | [name, n] =>
    (readNumber n).bind fun k =>
      if name = "CORRECTED".toList then
        (if k = 3 then some (.ecc (.corrected .upTo3))
         else if k = 6 then some (.ecc (.corrected .upTo6))
         else if k = 8 then some (.ecc (.corrected .upTo8))
         else none)
      else none
  | [name, s, [','], e] =>
    (readNumber s).bind fun ks => (readNumber e).bind fun ke =>
      if name = "RANGE".toList ∧ ks ≤ 65535 ∧ ke ≤ 65535 then
        some (.range (.ok ⟨BitVec.ofNat 16 ks, BitVec.ofNat 16 ke⟩))
      else none
  | _ => none

/-- A line's words up to `=>`, and the words after it where there is one. -/
def splitExpected : List (List Char) → List (List Char) × Option (List (List Char))
  | [] => ([], none)
  | word :: rest =>
    if word = "=>".toList then ([], some rest)
    else (word :: (splitExpected rest).1, (splitExpected rest).2)

/-- A line of a run with the expected response after `=>` where given (R38). `RESET` has no response (R80). -/
def readVector (text : String) : Option (AsmLine × Option Response) :=
  let parts := splitExpected (lineWords [] text.toList)
  (readRequestWords parts.1).bind fun line =>
    if line.wellFormed then
      match parts.2 with
      | none => some (line, none)
      | some words =>
        if line = .reset then none else (readResponseWords words).map fun r => (line, some r)
    else none

/-- The line form of a response (R38). -/
def responseText : Response → String
  | .ecc .clean => "CLEAN"
  | .ecc (.corrected band) => "CORRECTED " ++ Nat.repr (bandTop band).toNat
  | .ecc .uncorrectable => "UNCORRECTABLE"
  | .ecc .unrecognized => "UNRECOGNIZED"
  | .range (.ok r) => "RANGE " ++ Nat.repr r.start.toNat ++ "," ++ Nat.repr r.stop.toNat
  | .range (.error .outOfRange) => "OUT_OF_RANGE"
  | .cfg .accepted => "CFG_ACCEPTED"
  | .cfg .ignored => "CFG_IGNORED"

end Sys2Proof.Machine
end

