-- ==== Sys2Proof/Tests/Slice0.lean ====
section
/-! SUPPORT. Small tests of the model: its decoder on words written out from the spec's encodings, the well-formedness checks
on ill-formed terms, one or two single steps per instruction with the spec's own vectors, and a witness for every
statement that has hypotheses. Expected values are from spec/95_test_vectors.md and the examples of the rules. -/

namespace Sys2Proof.Tests

open Sys2Proof.Machine

/-- A block with the given `CFG` and the given requests to come. -/
def blockWith (c : Cfg) (words : List Req) : State :=
  { cfg := c, pending := words.map .request, responses := [] }

/-- `CFG` and the words read, after an outcome. -/
def seen : Host.Outcome State Fault Refusal → Option (Cfg × List Rsp)
  | .next t => some (t.cfg, t.responses)
  | _ => none

/-- `CFG` and the word read after one request. -/
def afterOne (c : Cfg) (q : Req) : Option (Cfg × List Rsp) := seen (step (blockWith c [q]))

/-! ## Decoding: words written out bit by bit from the encoding tables (30_encoding.md R33; 95_test_vectors.md section 2) -/

theorem test_decode_decA : decode 0x80040#20 0b000000000000000000100000#24 = .decA 0x20#8 := by decide
theorem test_decode_decB : decode 0xE0040#20 0b000000000000000011111111#24 = .decB 0xFF#8 := by decide
theorem test_decode_decU : decode 0x00000#20 0b000000000000000001010000#24 = .decU 0x50#8 := by decide
theorem test_decode_dec_reserved : decode 0x80040#20 0b001111111111111100100000#24 = .decA 0x20#8 := by decide
theorem test_decode_eccrL4 : decode 0x80040#20 0b010000000000000000000011#24 = .eccrL4 3#22 := by decide
theorem test_decode_eccrL1F : decode 0x90080#20 0b010000000000000000000000#24 = .eccrL1F 0#22 := by decide
theorem test_decode_eccrLP : decode 0xA0040#20 0b011111111111111111111111#24 = .eccrLP 4194303#22 := by decide
theorem test_decode_eccrZ : decode 0xB0040#20 0b010000000000000000000001#24 = .eccrZ 1#22 := by decide
theorem test_decode_freerL4 : decode 0xC0040#20 0b100000000000000000000100#24 = .freerL4 4#22 := by decide
theorem test_decode_freerL1F : decode 0xD0080#20 0b100000000000000000000001#24 = .freerL1F 1#22 := by decide
theorem test_decode_freerLP : decode 0xE0080#20 0b100000000000000000000000#24 = .freerLP 0#22 := by decide
theorem test_decode_freerZ : decode 0x00000#20 0b101111111111111111111111#24 = .freerZ 4194303#22 := by decide
theorem test_decode_ldcfg : decode 0x00000#20 0b110001100000000010000000#24 = .ldcfg .b .lp 128#16 := by decide
theorem test_decode_ldcfg_reserved :
    decode 0x00000#20 0b111111100000000010000000#24 = .ldcfg .b .lp 128#16 := by decide
theorem test_decode_ldcfg_L3 : decode 0xE0040#20 0xC7FFFF#24 = .ldcfg .b .l3 65535#16 := by decide

/-- The examples of R38, encoded. -/
theorem test_encode_examples :
    encode (.decA 0x20#8) = 0x000020#24 ∧ encode (.eccrL4 3#22) = 0x400003#24 ∧
    encode (.freerZ 0#22) = 0x800000#24 ∧ encode (.ldcfg .a .l4 64#16) = 0xC00040#24 ∧
    encode (.ldcfg .b .lp 128#16) = 0xC60080#24 := by decide

theorem test_tableWord : decodeTableWord 24 0xC60080 = some (.ldcfg .b .lp 128#16) := by decide
theorem test_tableWord_dec : decodeTableWord 24 0x000050 = some (.decU 0x50#8) := by decide
theorem test_tableWord_too_long : decodeTableWord 32 0x000050 = none := by decide

/-! ## Well-formedness: an ill-formed term for each check -/

theorem test_illformed_decA : (Instr.decA 0#8).wellFormed 0xC0000#20 = false := by decide
theorem test_illformed_decB : (Instr.decB 0#8).wellFormed 0x80000#20 = false := by decide
theorem test_illformed_decU : (Instr.decU 0#8).wellFormed 0x80000#20 = false := by decide
theorem test_illformed_eccrL4 : (Instr.eccrL4 0#22).wellFormed 0x90000#20 = false := by decide
theorem test_illformed_eccrL1F : (Instr.eccrL1F 0#22).wellFormed 0x80000#20 = false := by decide
theorem test_illformed_eccrLP : (Instr.eccrLP 0#22).wellFormed 0x20000#20 = false := by decide
theorem test_illformed_eccrZ : (Instr.eccrZ 0#22).wellFormed 0xA0000#20 = false := by decide
theorem test_illformed_freerL4 : (Instr.freerL4 0#22).wellFormed 0x00000#20 = false := by decide
theorem test_illformed_freerL1F : (Instr.freerL1F 0#22).wellFormed 0xB0000#20 = false := by decide
theorem test_illformed_freerLP : (Instr.freerLP 0#22).wellFormed 0x90000#20 = false := by decide
theorem test_illformed_freerZ : (Instr.freerZ 0#22).wellFormed 0x80000#20 = false := by decide
theorem test_illformed_pa3_pinned : (VariantAParams.mk 0b010#3 0b011#3).wellFormed = false := by decide
theorem test_illformed_pa6_unused : (VariantAParams.mk 0b001#3 0b110#3).wellFormed = false := by decide
theorem test_illformed_pa_equal : (VariantAParams.mk 0b100#3 0b100#3).wellFormed = false := by decide
theorem test_illformed_pb_equal : (VariantBParams.mk 0#4 2#4 1#4 3#4 2#4).wellFormed = false := by decide
theorem test_wellformed_params :
    defaultParamsA.wellFormed = true ∧ (VariantAParams.mk 0b100#3 0b111#3).wellFormed = true ∧
    exampleParamsB.wellFormed = true := by decide
theorem test_illformed_lines :
    (AsmLine.dec 256).wellFormed = false ∧ (AsmLine.eccr 4194304).wellFormed = false ∧
    (AsmLine.freer 4194304).wellFormed = false ∧ (AsmLine.ldcfg .a .l4 65536).wellFormed = false := by decide

/-- `WF` at its bounds (R29; 95_test_vectors.md sections 3.5 to 3.7). -/
theorem test_wellFormedGeometry :
    [0x80040#20, 0x8003F#20, 0x90080#20, 0x9007F#20, 0xA0004#20, 0xA0003#20, 0xB0040#20, 0x00040#20].map
      wellFormedGeometry = [true, false, true, false, true, false, false, false] := by decide

/-! ## Single steps -/

/-- 95_test_vectors.md S4: under every assignment of the parameters. -/
theorem test_decA_uncorrectable :
    afterOne 0x80040#20 0x000020#24 = some (0x80040#20, [0x500000000#36]) := by decide
theorem test_decA_unused : afterOne 0x80040#20 0x000060#24 = some (0x80040#20, [0x700000000#36]) := by decide
/-- Section 3.1, the default parameters as an argument of the table. -/
theorem test_tableA_defaults :
    [0x10#8, 0x30#8, 0x40#8, 0xD7#8, 0xFF#8].map (fun b => tableA defaultParamsA (patternA b)) =
      [.corrected .upTo3, .corrected .upTo6, .unrecognized, .corrected .upTo8, .unrecognized] := by decide
/-- Section 3.3, the example assignment as an argument of the table: bit 7 matters. -/
theorem test_tableB_example :
    [0x5A#8, 0x20#8, 0x80#8, 0x90#8, 0x0F#8].map (fun b => tableB exampleParamsB (patternB b)) =
      [.corrected .upTo8, .uncorrectable, .unrecognized, .unrecognized, .clean] := by decide
/-- Section 3.3, symbolic: `DEC (PB_CLEAN << 4)` is `CLEAN` under every assignment. -/
theorem test_decB_clean_symbolic : tableB paramsB paramsB.pbClean = .clean := by
  simp [tableB]
theorem test_decU : afterOne 0x00000#20 0x000000#24 = some (0x00000#20, [0x700000000#36]) := by decide
theorem test_eccrL4 : afterOne 0x80040#20 0x400003#24 = some (0x80040#20, [0x800380040#36]) := by decide
/-- Section 3.5: low 16 bits of the index zero, no truncation. -/
theorem test_eccrL4_no_truncation :
    afterOne 0x80040#20 0x410000#24 = some (0x80040#20, [0xA00000000#36]) := by decide
theorem test_freerL4 : afterOne 0x80010#20 0x800002#24 = some (0x80010#20, [0x800220028#36]) := by decide
theorem test_freerL4_error : afterOne 0x80040#20 0x800004#24 = some (0x80040#20, [0xA00000000#36]) := by decide
theorem test_eccrL1F : afterOne 0x90080#20 0x400000#24 = some (0x90080#20, [0x800400080#36]) := by decide
theorem test_freerL1F : afterOne 0x90080#20 0x800000#24 = some (0x90080#20, [0x800010040#36]) := by decide
theorem test_freerL1F_error : afterOne 0x90080#20 0x800001#24 = some (0x90080#20, [0xA00000000#36]) := by decide
theorem test_eccrLP_odd : afterOne 0xA0041#20 0x400000#24 = some (0xA0041#20, [0x800200041#36]) := by decide
theorem test_eccrLP_largest : afterOne 0xAFFFF#20 0x400000#24 = some (0xAFFFF#20, [0x87FFFFFFF#36]) := by decide
theorem test_freerLP : afterOne 0xE0080#20 0x800000#24 = some (0xE0080#20, [0x800020040#36]) := by decide
theorem test_freerLP_inverted : afterOne 0xA0003#20 0x800000#24 = some (0xA0003#20, [0x800020001#36]) := by decide
theorem test_eccrZ : afterOne 0xF0080#20 0x400000#24 = some (0xF0080#20, [0xA00000000#36]) := by decide
theorem test_freerZ : afterOne 0x00000#20 0xBFFFFF#24 = some (0x00000#20, [0xA00000000#36]) := by decide
theorem test_ldcfg_accepted : afterOne 0x00000#20 0xFE0080#24 = some (0xE0080#20, [0xC00000000#36]) := by decide
theorem test_ldcfg_ignored : afterOne 0x80000#20 0xC60080#24 = some (0x80000#20, [0xE00000000#36]) := by decide

/-- The last row of section 3.9: `RESET` has no response. -/
theorem test_reset_event :
    seen (step { cfg := 0xE0040#20, pending := [.reset], responses := [0xC00000000#36] }) =
      some (0#20, [0xC00000000#36]) := by decide

/-- When nothing is pending the state stays as it is. -/
theorem test_idle : seen (step State.reset) = some (0#20, []) := by decide

/-- The response words of 95_test_vectors.md, first table, and some the block never produces (end of section 2). -/
theorem test_legal_words :
    ([0x200000008#36, 0x700000000#36, 0x800380040#36, 0x87FFFFFFF#36, 0x800020000#36].map legalResponse =
      [true, true, true, true, true]) ∧
    ([0x100000000#36, 0x400000000#36, 0x200000004#36, 0xA00000001#36, 0x900020008#36].map legalResponse =
      [false, false, false, false, false]) := by decide

/-! ## The assembler's lines (R38) -/

theorem test_line_ldcfg : (readLine "LDCFG B, LP, 128").bind assemble = some (.request 0xC60080#24) := by decide
theorem test_line_hex : (readLine "DEC 0x20").bind assemble = some (.request 0x000020#24) := by decide
theorem test_line_binary : readLine "ECCR 0b11" = some (.eccr 3) := by decide
theorem test_line_reset : (readLine "RESET").bind assemble = some .reset := by decide
theorem test_line_out_of_range : readLine "DEC 256" = none := by decide
theorem test_line_bad_digit : readLine "FREER 0b12" = none := by decide
theorem test_vector_line : readVector "ECCR 3 => RANGE 56,64" = some (.eccr 3, some (.range (.ok ⟨56#16, 64#16⟩))) := by
  decide
theorem test_response_text : responseText (.range (.ok ⟨56#16, 64#16⟩)) = "RANGE 56,64" := by decide

/-! ## Witnesses: states and operands that meet the hypotheses of the statements -/

/-- An answer, shown by running the step. -/
theorem answers_of_seen {s : State} {q : Req} {w : Rsp} {c : Cfg}
    (h : seen (step (issueFirst q s)) = some (c, s.responses ++ [w])) : Answers s q w := by
  unfold Answers
  cases hs : step (issueFirst q s) with
  | next t =>
    rw [hs] at h
    simp only [seen, Option.some.injEq, Prod.mk.injEq] at h
    exact ⟨t, rfl, h.2⟩
  | fault r => exact r.rec
  | refused r => rw [hs] at h; simp [seen] at h

theorem witness_StepRunsDecodedRequest : (blockWith 0x80040#20 [0x400003#24]).pending = [.request 0x400003#24] := rfl

/-- ResetClearsCfgAndAloneUnconfigures, second clause: a configured state whose step leaves it unconfigured. -/
theorem witness_ResetClearsCfgAndAloneUnconfigures :
    (0xFFFFF#20).getLsbD 19 = true ∧
    seen (step { cfg := 0xFFFFF#20, pending := [.reset], responses := [] }) = some (0#20, []) := by decide

/-- Two requests, an `LDCFG` among them, from a configured block. -/
theorem witness_ConfigImmutableAlongRuns :
    (blockWith 0xE0040#20 [0xC00040#24, 0x400000#24]).cfg.getLsbD 19 = true ∧
    (∀ e ∈ (blockWith 0xE0040#20 [0xC00040#24, 0x400000#24]).pending.take 2, e ≠ HostEvent.reset) ∧
    seen (Sys2Proof.core.run 2 (blockWith 0xE0040#20 [0xC00040#24, 0x400000#24])) =
      some (0xE0040#20, [0xE00000000#36, 0x800200040#36]) := by decide

/-- A state that meets the invariant, with a word read and a request to come, and its step. -/
theorem witness_InvariantKeptByEveryStep :
    Inv { cfg := 0#20, pending := [.request 0xC60080#24], responses := [0x700000000#36] } ∧
    seen (step { cfg := 0#20, pending := [.request 0xC60080#24], responses := [0x700000000#36] }) =
      some (0xE0080#20, [0x700000000#36, 0xC00000000#36]) := by
  refine ⟨⟨fun _ => rfl, ?_⟩, by decide⟩
  intro w hw
  simp only [List.mem_singleton] at hw
  subst hw
  decide

/-- One well-formed instruction of each mode. -/
theorem witness_DecodeOfEncodeIsIdentity :
    (Instr.decA 0xFF#8).wellFormed 0x80000#20 = true ∧ (Instr.decB 0#8).wellFormed 0xFFFFF#20 = true ∧
    (Instr.decU 0#8).wellFormed 0x7FFFF#20 = true ∧ (Instr.eccrL4 4194303#22).wellFormed 0x8FFFF#20 = true ∧
    (Instr.eccrL1F 0#22).wellFormed 0x90000#20 = true ∧ (Instr.eccrLP 0#22).wellFormed 0xEFFFF#20 = true ∧
    (Instr.eccrZ 0#22).wellFormed 0xB0000#20 = true ∧ (Instr.freerL4 0#22).wellFormed 0x80000#20 = true ∧
    (Instr.freerL1F 1#22).wellFormed 0xD0000#20 = true ∧ (Instr.freerLP 0#22).wellFormed 0xA0000#20 = true ∧
    (Instr.freerZ 4194303#22).wellFormed 0x00000#20 = true ∧
    (Instr.ldcfg .b .l3 65535#16).wellFormed 0#20 = true := by decide

/-- An answer of each operation, at the ends of the request words' ranges. -/
theorem witness_EveryAnswerIsLegal :
    Answers State.reset 0x000000#24 0x700000000#36 ∧ Answers State.reset 0x3FFFFF#24 0x700000000#36 ∧
    Answers State.reset 0x400000#24 0xA00000000#36 ∧ Answers (blockWith 0x80040#20 []) 0x400000#24 0x800080010#36 ∧
    Answers State.reset 0xBFFFFF#24 0xA00000000#36 ∧
    Answers State.reset 0xC00000#24 0xC00000000#36 ∧ Answers (blockWith 0xFFFFF#20 []) 0xFFFFFF#24 0xE00000000#36 :=
  ⟨answers_of_seen (c := 0#20) (by decide), answers_of_seen (c := 0#20) (by decide),
   answers_of_seen (c := 0#20) (by decide), answers_of_seen (c := 0x80040#20) (by decide),
   answers_of_seen (c := 0#20) (by decide),
   answers_of_seen (c := 0x80000#20) (by decide), answers_of_seen (c := 0xFFFFF#20) (by decide)⟩

/-- The clauses of ResultCodesByOperation, at the ends of their ranges: the answers are those of
witness_EveryAnswerIsLegal. -/
theorem witness_ResultCodesByOperation :
    (0x000000#24).toNat / 2 ^ 22 = 0 ∧ (0x3FFFFF#24).toNat / 2 ^ 22 = 0 ∧ (0x400000#24).toNat / 2 ^ 22 = 1 ∧
    (0xBFFFFF#24).toNat / 2 ^ 22 = 2 ∧ (0xC00000#24).toNat / 2 ^ 22 = 3 ∧ (0xFFFFFF#24).toNat / 2 ^ 22 = 3 := by
  decide

/-- Two different states with the same `CFG`. -/
theorem witness_ResponseDependsOnCfgAndWordOnly :
    blockWith 0x80040#20 [] ≠ blockWith 0x80040#20 [0xC00000#24] ∧
    (blockWith 0x80040#20 []).cfg = (blockWith 0x80040#20 [0xC00000#24]).cfg := by decide

/-- The largest request word below `LDCFG`. -/
theorem witness_PureOperationsLeaveCfg :
    (0xBFFFFF#24).toNat < 0xC00000 ∧ afterOne 0x80040#20 0xBFFFFF#24 = some (0x80040#20, [0xA00000000#36]) := by
  decide

/-- An answer with each of the three error codes. -/
theorem witness_ErrorsLeaveNoTrace :
    afterOne 0x80040#20 0x000020#24 = some (0x80040#20, [0x500000000#36]) ∧ rspRc 0x500000000#36 = 2#3 ∧
    afterOne 0x00000#20 0x0000FF#24 = some (0x00000#20, [0x700000000#36]) ∧ rspRc 0x700000000#36 = 3#3 ∧
    afterOne 0x90080#20 0x400001#24 = some (0x90080#20, [0xA00000000#36]) ∧ rspRc 0xA00000000#36 = 5#3 := by decide

/-- Both clauses of RepeatedRequests, on either side of their bound. -/
theorem witness_RepeatedRequests :
    Answers State.reset 0xBFFFFF#24 0xA00000000#36 ∧ (0xBFFFFF#24).toNat < 0xC00000 ∧
    Answers State.reset 0xC00000#24 0xC00000000#36 ∧ 0xC00000 ≤ (0xC00000#24).toNat ∧
    seen (step (issueFirst 0xC00000#24 State.reset)) = some (0x80000#20, [0xC00000000#36]) ∧
    Answers (blockWith 0x80000#20 []) 0xC00000#24 0xE00000000#36 :=
  ⟨answers_of_seen (c := 0#20) (by decide), by decide, answers_of_seen (c := 0x80000#20) (by decide), by decide,
   by decide, answers_of_seen (c := 0x80000#20) (by decide)⟩

/-- Unconfigured with every other bit of `CFG` set, the highest `DEC` and the first and last mapper words. -/
theorem witness_UnconfiguredAnswersFirst :
    (blockWith 0x7FFFF#20 []).cfg.toNat < 0x80000 ∧ (0x3FFFFF#24).toNat < 0x400000 ∧
    0x400000 ≤ (0x400000#24).toNat ∧ (0xBFFFFF#24).toNat < 0xC00000 := by decide

/-- The clauses of DecReadsOnlyItsMask: different `CFG`s of one variant, bytes that differ outside the mask. -/
theorem witness_DecReadsOnlyItsMask :
    variant 0x80000#20 = .a ∧ variant 0xBFFFF#20 = .a ∧ (0x80#8).toNat / 16 % 8 = (0x0F#8).toNat / 16 % 8 ∧
    variant 0xC0000#20 = .b ∧ variant 0xFFFFF#20 = .b ∧ (0xF0#8).toNat / 16 = (0xFF#8).toNat / 16 := by decide

theorem witness_UnrecognizedPatternCounts :
    (VariantAParams.mk 0b111#3 0b100#3).wellFormed = true ∧
    (VariantBParams.mk 15#4 14#4 13#4 0#4 1#4).wellFormed = true := by decide

/-- Lines at the ends of their ranges, and beyond. -/
theorem witness_AssembledLinesDecodeToTheirNumbers :
    assemble (.dec 255) = some (.request 0x0000FF#24) ∧ assemble (.dec 256) = none ∧
    assemble (.eccr 4194303) = some (.request 0x7FFFFF#24) ∧ assemble (.freer 4194303) = some (.request 0xBFFFFF#24) ∧
    assemble (.ldcfg .b .l3 65535) = some (.request 0xC7FFFF#24) := by decide

/-- Answers with a range under each layout, at the last index of each: what the statements about ranges need. -/
theorem witness_ranges :
    Answers (blockWith 0x80040#20 []) (encodeRequest (.eccr 3#22)) (packResponse 4#3 0#1 56#16 64#16) ∧
    Answers (blockWith 0x80040#20 []) (encodeRequest (.freer 3#22)) (packResponse 4#3 0#1 50#16 56#16) ∧
    Answers (blockWith 0x80040#20 []) (encodeRequest (.freer 0#22)) (packResponse 4#3 0#1 2#16 8#16) ∧
    Answers (blockWith 0x90080#20 []) (encodeRequest (.eccr 0#22)) (packResponse 4#3 0#1 64#16 128#16) ∧
    Answers (blockWith 0x90080#20 []) (encodeRequest (.freer 0#22)) (packResponse 4#3 0#1 1#16 64#16) ∧
    Answers (blockWith 0xA0004#20 []) (encodeRequest (.eccr 0#22)) (packResponse 4#3 0#1 2#16 4#16) ∧
    Answers (blockWith 0xA0004#20 []) (encodeRequest (.freer 0#22)) (packResponse 4#3 0#1 2#16 2#16) :=
  ⟨answers_of_seen (c := 0x80040#20) (by decide), answers_of_seen (c := 0x80040#20) (by decide),
   answers_of_seen (c := 0x80040#20) (by decide), answers_of_seen (c := 0x90080#20) (by decide),
   answers_of_seen (c := 0x90080#20) (by decide), answers_of_seen (c := 0xA0004#20) (by decide),
   answers_of_seen (c := 0xA0004#20) (by decide)⟩

/-- EccAndFreeRangesAdjacentAndDisjoint: the two ranges of one index, as answered (witness_ranges), and their bytes. -/
theorem witness_EccAndFreeRangesAdjacentAndDisjoint :
    rangeHas ⟨56#16, 64#16⟩ 56 = true ∧ rangeHas ⟨50#16, 56#16⟩ 55 = true := by decide

/-- L4RegionsStayApart: layout L4 and two different indices with the ranges of witness_ranges. -/
theorem witness_L4RegionsStayApart : layout (blockWith 0x80040#20 []).cfg = .l4 ∧ (3#22 : Index) ≠ 0#22 := by decide

/-- WellFormedGeometryIsContainment: each layout with regions, on both sides of its bound. -/
theorem witness_WellFormedGeometryIsContainment :
    layout 0x80040#20 ≠ .z ∧ layout 0x8003F#20 ≠ .z ∧ layout 0x90080#20 ≠ .z ∧ layout 0x9007F#20 ≠ .z ∧
    layout 0xA0004#20 ≠ .z ∧ layout 0xA0003#20 ≠ .z := by decide

/-- MarkerBytesStayReserved: each clause at the bounds of its sizes, with the ranges of witness_ranges and a byte of
each. -/
theorem witness_MarkerBytesStayReserved :
    layout (blockWith 0x90080#20 []).cfg = .l1f ∧ rangeHas ⟨1#16, 64#16⟩ 1 = true ∧
    layout (blockWith 0xA0004#20 []).cfg = .lp ∧ 4 ≤ (blockWith 0xA0004#20 []).cfg.toNat % 65536 ∧
    rangeHas ⟨2#16, 4#16⟩ 2 = true ∧
    layout (blockWith 0xA0001#20 []).cfg = .lp ∧ 1 ≤ (blockWith 0xA0001#20 []).cfg.toNat % 65536 ∧
    layout (blockWith 0xA0003#20 []).cfg = .lp ∧ (blockWith 0xA0003#20 []).cfg.toNat % 65536 ≤ 3 := by decide

/-- RangeLengthsDoNotWrap: well-formed geometry at its bounds, with the ranges of witness_ranges. -/
theorem witness_RangeLengthsDoNotWrap :
    wellFormedGeometry (blockWith 0x80040#20 []).cfg = true ∧ wellFormedGeometry (blockWith 0x90080#20 []).cfg = true ∧
    wellFormedGeometry (blockWith 0xA0004#20 []).cfg = true := by decide

/-- MapperReadsOnlyItsFields: the first and the last mapper word; two `CFG`s that differ in `ECCV` and, but under LP, in
`OOBSZ`. -/
theorem witness_MapperReadsOnlyItsFields :
    0x400000 ≤ (0x400000#24).toNat ∧ (0xBFFFFF#24).toNat < 0xC00000 ∧
    layout 0x80040#20 = layout 0xC0000#20 ∧ layout 0x80040#20 ≠ .lp ∧
    layout 0xA0041#20 = layout 0xE0041#20 ∧ layout 0xA0041#20 = .lp ∧
    (0xA0041#20).toNat % 65536 = (0xE0041#20).toNat % 65536 := by decide

/-- RunNeverStops, third clause: more steps than events. -/
theorem witness_RunNeverStops :
    (blockWith 0#20 [0xC00040#24]).pending.length ≤ 3 ∧
    seen (Sys2Proof.core.run 3 (blockWith 0#20 [0xC00040#24])) = some (0x80040#20, [0xC00000000#36]) := by decide

/-- ResponseWordsReadBack, second clause: a word that reads as a result, and one that does not. -/
theorem witness_ResponseWordsReadBack :
    readResponse 0x800380040#36 = some (.range (.ok ⟨56#16, 64#16⟩)) ∧ readResponse 0x100000000#36 = none := by decide

end Sys2Proof.Tests
end

section
/-! PROOF. The modes, the decoder's operation and the response words as numbers: each function of the model that the
rules give on numbers, as one equation with its tests on numbers, in the order of the spec's pseudocode. -/

namespace Sys2Proof.Machine

/-! ## The modes and the operation -/

/-- `VALID` asked as the word-level rules ask for it (R11). -/
theorem cfgValid_iff_div_ne_zero (c : Cfg) : cfgValid c = true ↔ ¬ c.toNat / 2 ^ 19 = 0 := by
  rw [cfgValid_iff]
  omega

/-- `variant(CFG)` with its tests on numbers (R18). -/
theorem variant_eq_ite (c : Cfg) :
    variant c =
      if c.toNat / 2 ^ 19 = 0 then .u else if c.toNat / 2 ^ 18 % 2 = 0 then .a else .b := by
  simp only [variant, cfgValid_iff_div_ne_zero, ite_not, ← BitVec.toNat_inj, cfgEccv_toNat, BitVec.toNat_ofNat]

/-- `layout(CFG)` with its tests on numbers, layout Z first (R18). -/
theorem layout_eq_ite (c : Cfg) :
    layout c =
      if c.toNat / 2 ^ 19 = 0 ∨ c.toNat / 2 ^ 16 % 4 = 3 then .z
      else if c.toNat / 2 ^ 16 % 4 = 0 then .l4
      else if c.toNat / 2 ^ 16 % 4 = 1 then .l1f
      else .lp := by
  simp only [layout, cfgValid_iff_div_ne_zero, ite_not, ← BitVec.toNat_inj, cfgLayout_toNat, BitVec.toNat_ofNat]
  by_cases hv : c.toNat / 2 ^ 19 = 0
  · rw [if_pos hv, if_pos (Or.inl hv)]
  · have hcode : c.toNat / 2 ^ 16 % 4 < 4 := Nat.mod_lt _ (by decide)
    rw [if_neg hv]
    simp only [hv, false_or]
    generalize c.toNat / 2 ^ 16 % 4 = code at hcode ⊢
    interval_cases code <;> rfl

/-- The four operations of a request word (R32). -/
theorem reqOp_cases (q : Req) :
    q.toNat / 2 ^ 22 = 0 ∨ q.toNat / 2 ^ 22 = 1 ∨ q.toNat / 2 ^ 22 = 2 ∨ q.toNat / 2 ^ 22 = 3 := by
  have hq := q.isLt
  omega

/-- The operation's code from its number (R32). -/
theorem reqOp_eq_of_div_eq {q : Req} {n : Nat} (h : q.toNat / 2 ^ 22 = n) : reqOp q = BitVec.ofNat 2 n := by
  rw [← h, ← reqOp_toNat, BitVec.ofNat_toNat, BitVec.setWidth_eq]

/-- A word with `OP = 0` is the row of `DEC` that the variant selects (R39, R40). -/
theorem decode_of_op_zero (c : Cfg) {q : Req} (h : q.toNat / 2 ^ 22 = 0) :
    decode c q = selectDec (variant c) (reqStatus q) := by
  rw [decode, decodeRequest, reqOp_eq_of_div_eq h]
  rfl

/-- A word with `OP = 1` is the row of `ECCR` that the layout selects (R39, R50). -/
theorem decode_of_op_one (c : Cfg) {q : Req} (h : q.toNat / 2 ^ 22 = 1) :
    decode c q = selectEccr (layout c) (reqIndex q) := by
  rw [decode, decodeRequest, reqOp_eq_of_div_eq h]
  rfl

/-- A word with `OP = 2` is the row of `FREER` that the layout selects (R39, R50). -/
theorem decode_of_op_two (c : Cfg) {q : Req} (h : q.toNat / 2 ^ 22 = 2) :
    decode c q = selectFreer (layout c) (reqIndex q) := by
  rw [decode, decodeRequest, reqOp_eq_of_div_eq h]
  rfl

/-- A word with `OP = 3` is `LDCFG` of its operand (R39). -/
theorem decode_of_op_three (c : Cfg) {q : Req} (h : q.toNat / 2 ^ 22 = 3) :
    decode c q = .ldcfg (variantOfBits (reqEccv q)) (layoutOfBits (reqLayout q)) (reqOobsz q) := by
  rw [decode, decodeRequest, reqOp_eq_of_div_eq h]
  rfl

/-! ## The tables of the decoder -/

theorem patternA_toNat (status : Status) : (patternA status).toNat = status.toNat / 16 % 8 :=
  patternA_of_status_toNat status

theorem patternB_toNat (status : Status) : (patternB status).toNat = status.toNat / 16 :=
  patternB_of_status_toNat status

/-- Variant A's table in the order R41 writes its tests: for a well-formed assignment the order does not matter. -/
theorem tableA_eq_spec_order {k : VariantAParams} (hk : k.wellFormed = true) (p : BitVec 3) :
    tableA k p =
      if p = 0b000#3 then .clean
      else if p = k.pa3 then .corrected .upTo3
      else if p = 0b010#3 then .uncorrectable
      else if p = k.pa6 then .corrected .upTo6
      else if p = 0b101#3 then .corrected .upTo8
      else .unrecognized := by
  obtain ⟨⟨h30, h32, h35, h36⟩, ⟨h60, h62, h65, h66⟩, -⟩ := paramsA_ne hk
  rw [tableA]
  by_cases h3 : p = k.pa3
  · subst h3
    simp [h30, h32, h35, h36]
  by_cases h6 : p = k.pa6
  · subst h6
    simp [h60, h62, h65, h66, h3]
  · simp only [h3, h6, if_false, ite_self]

/-- The response word of Variant A's table, on numbers (R35, R41). -/
theorem responseWord_tableA_toNat {k : VariantAParams} (hk : k.wellFormed = true) (p : BitVec 3) :
    (responseWord (.ecc (tableA k p))).toNat =
      if p.toNat = 0 then 0x000000000
      else if p.toNat = k.pa3.toNat then 0x200000003
      else if p.toNat = 2 then 0x500000000
      else if p.toNat = k.pa6.toNat then 0x200000006
      else if p.toNat = 5 then 0x200000008
      else 0x700000000 := by
  simp only [tableA_eq_spec_order hk, ← BitVec.toNat_inj, BitVec.toNat_ofNat]
  split_ifs <;> rfl

/-- The response word of Variant B's table, on numbers (R35, R42). -/
theorem responseWord_tableB_toNat (k : VariantBParams) (p : BitVec 4) :
    (responseWord (.ecc (tableB k p))).toNat =
      if p.toNat = k.pbClean.toNat then 0x000000000
      else if p.toNat = k.pbUnc.toNat then 0x500000000
      else if p.toNat = k.pb3.toNat then 0x200000003
      else if p.toNat = k.pb6.toNat then 0x200000006
      else if p.toNat = k.pb8.toNat then 0x200000008
      else 0x700000000 := by
  simp only [tableB, ← BitVec.toNat_inj]
  split_ifs <;> rfl

/-! ## The ranges of the mapper -/

/-- The response word of a range (R35). -/
theorem responseWord_range_toNat (r : Range) :
    (responseWord (.range (.ok r))).toNat = referenceRange r.start.toNat r.stop.toNat := by
  rw [responseWord, packResponse_toNat]
  simp [resultCode, uncFlag, payloadA, payloadB, referenceRange]

/-- The response word of an index check (R35, R50). -/
theorem responseWord_checkIndex_toNat (count : Nat) (index : Index) (r : Range) :
    (responseWord (.range (checkIndex count index r))).toNat =
      if index.toNat < count then referenceRange r.start.toNat r.stop.toNat else 0xA00000000 := by
  split_ifs with h
  · rw [checkIndex_of_lt h, responseWord_range_toNat]
  · rw [checkIndex_of_le (not_lt.1 h)]
    rfl

/-! ## The rows of the mapper -/

/-- `ECCR.L4` on numbers (R51). -/
theorem responseWord_eccrL4_toNat (c : Cfg) (index : Index) :
    (responseWord (rowResponse c (.eccrL4 index))).toNat =
      if index.toNat < 4 then referenceRange (16 * index.toNat + 8) (16 * index.toNat + 16)
      else 0xA00000000 := by
  rw [rowResponse, responseWord_checkIndex_toNat]
  refine ite_congr rfl (fun h => ?_) (fun _ => rfl)
  obtain ⟨hstart, hstop⟩ := eccRangeL4_toNat h
  rw [hstart, hstop]

/-- `FREER.L4` on numbers (R52). -/
theorem responseWord_freerL4_toNat (c : Cfg) (index : Index) :
    (responseWord (rowResponse c (.freerL4 index))).toNat =
      if index.toNat < 4 then referenceRange (16 * index.toNat + 2) (16 * index.toNat + 8)
      else 0xA00000000 := by
  rw [rowResponse, responseWord_checkIndex_toNat]
  refine ite_congr rfl (fun h => ?_) (fun _ => rfl)
  obtain ⟨hstart, hstop⟩ := freeRangeL4_toNat h
  rw [hstart, hstop]

/-- The index check of a layout with one region (R18, R50). -/
theorem responseWord_checkIndex_one_toNat (index : Index) (r : Range) :
    (responseWord (.range (checkIndex 1 index r))).toNat =
      if index.toNat = 0 then referenceRange r.start.toNat r.stop.toNat else 0xA00000000 := by
  simp only [responseWord_checkIndex_toNat, Nat.lt_one_iff]

/-- `ECCR.L1F` on numbers (R53). -/
theorem responseWord_eccrL1F_toNat (c : Cfg) (index : Index) :
    (responseWord (rowResponse c (.eccrL1F index))).toNat =
      if index.toNat = 0 then referenceRange 64 128 else 0xA00000000 :=
  responseWord_checkIndex_one_toNat index eccRangeL1F

/-- `FREER.L1F` on numbers (R54). -/
theorem responseWord_freerL1F_toNat (c : Cfg) (index : Index) :
    (responseWord (rowResponse c (.freerL1F index))).toNat =
      if index.toNat = 0 then referenceRange 1 64 else 0xA00000000 :=
  responseWord_checkIndex_one_toNat index freeRangeL1F

/-- `ECCR.LP` on numbers (R55). -/
theorem responseWord_eccrLP_toNat (c : Cfg) (index : Index) :
    (responseWord (rowResponse c (.eccrLP index))).toNat =
      if index.toNat = 0 then referenceRange (c.toNat % 2 ^ 16 / 2) (c.toNat % 2 ^ 16)
      else 0xA00000000 := by
  rw [← cfgOobsz_toNat, ← half_toNat]
  exact responseWord_checkIndex_one_toNat index (eccRangeLP (cfgOobsz c))

/-- `FREER.LP` on numbers (R56). -/
theorem responseWord_freerLP_toNat (c : Cfg) (index : Index) :
    (responseWord (rowResponse c (.freerLP index))).toNat =
      if index.toNat = 0 then referenceRange 2 (c.toNat % 2 ^ 16 / 2) else 0xA00000000 := by
  rw [← cfgOobsz_toNat, ← half_toNat]
  exact responseWord_checkIndex_one_toNat index (freeRangeLP (cfgOobsz c))

/-- `ECCR.Z` on numbers (R57). -/
theorem responseWord_eccrZ_toNat (c : Cfg) (index : Index) :
    (responseWord (rowResponse c (.eccrZ index))).toNat = 0xA00000000 := by
  rw [rowResponse]
  rfl

/-- `FREER.Z` on numbers (R57). -/
theorem responseWord_freerZ_toNat (c : Cfg) (index : Index) :
    (responseWord (rowResponse c (.freerZ index))).toNat = 0xA00000000 := by
  rw [rowResponse]
  rfl

end Sys2Proof.Machine
end

section
/-! PROOF. The block refines the word-level reference: first each operation, then one request, then a whole run. -/

namespace Sys2Proof.Machine

/-! ## One operation -/

/-- `DEC` under every configuration answers the reference's word (R40 to R43). -/
theorem dec_refines_referenceDec (c : Cfg) (status : Status) :
    (responseWord (rowResponse c (selectDec (variant c) status))).toNat =
      referenceDec c.toNat status.toNat := by
  rw [variant_eq_ite, referenceDec]
  split_ifs <;> simp only [selectDec, rowResponse]
  · rfl
  · rw [responseWord_tableA_toNat paramsA_wellFormed, patternA_toNat]
  · rw [responseWord_tableB_toNat, patternB_toNat]

/-- `ECCR` under every configuration answers the reference's word (R50, R51, R53, R55, R57). -/
theorem eccr_refines_referenceMap (c : Cfg) (index : Index) :
    (responseWord (rowResponse c (selectEccr (layout c) index))).toNat =
      referenceMap true c.toNat index.toNat := by
  simp only [layout_eq_ite, referenceMap, if_true]
  by_cases hz : c.toNat / 2 ^ 19 = 0 ∨ c.toNat / 2 ^ 16 % 4 = 3
  · simp only [if_pos hz, selectEccr, responseWord_eccrZ_toNat]
  by_cases h4 : c.toNat / 2 ^ 16 % 4 = 0
  · simp only [if_neg hz, if_pos h4, selectEccr, responseWord_eccrL4_toNat]
  by_cases h1 : c.toNat / 2 ^ 16 % 4 = 1
  · simp only [if_neg hz, if_neg h4, if_pos h1, selectEccr, responseWord_eccrL1F_toNat]
  · simp only [if_neg hz, if_neg h4, if_neg h1, selectEccr, responseWord_eccrLP_toNat]

/-- `FREER` under every configuration answers the reference's word (R50, R52, R54, R56, R57). -/
theorem freer_refines_referenceMap (c : Cfg) (index : Index) :
    (responseWord (rowResponse c (selectFreer (layout c) index))).toNat =
      referenceMap false c.toNat index.toNat := by
  simp only [layout_eq_ite, referenceMap, Bool.false_eq_true, if_false]
  by_cases hz : c.toNat / 2 ^ 19 = 0 ∨ c.toNat / 2 ^ 16 % 4 = 3
  · simp only [if_pos hz, selectFreer, responseWord_freerZ_toNat]
  by_cases h4 : c.toNat / 2 ^ 16 % 4 = 0
  · simp only [if_neg hz, if_pos h4, selectFreer, responseWord_freerL4_toNat]
  by_cases h1 : c.toNat / 2 ^ 16 % 4 = 1
  · simp only [if_neg hz, if_neg h4, if_pos h1, selectFreer, responseWord_freerL1F_toNat]
  · simp only [if_neg hz, if_neg h4, if_neg h1, selectFreer, responseWord_freerLP_toNat]

/-- `LDCFG` answers the reference's word (R65, R66). -/
theorem ldcfg_refines_reference (c : Cfg) (v : EccVariant) (l : LayoutCode) (size : Offset) :
    (responseWord (rowResponse c (.ldcfg v l size))).toNat =
      if c.toNat / 2 ^ 19 = 0 then 0xC00000000 else 0xE00000000 := by
  simp only [rowResponse, cfgValid_iff_div_ne_zero, ite_not]
  split_ifs <;> rfl

/-! ## One request -/

/-- The word a request is answered with is the reference's (R34). -/
theorem response_refines_referenceResponse (c : Cfg) (q : Req) :
    (responseWord (rowResponse c (decode c q))).toNat = referenceResponse c.toNat q.toNat := by
  rcases reqOp_cases q with h | h | h | h <;> simp only [referenceResponse, h]
  · rw [decode_of_op_zero c h, dec_refines_referenceDec, reqStatus_toNat]
    rfl
  · rw [decode_of_op_one c h, eccr_refines_referenceMap, reqIndex_toNat]
    rfl
  · rw [decode_of_op_two c h, freer_refines_referenceMap, reqIndex_toNat]
    rfl
  · rw [decode_of_op_three c h, ldcfg_refines_reference]
    rfl

/-- `DEC` writes no state (R10). -/
theorem rowCfg_selectDec (c : Cfg) (v : Variant) (status : Status) : rowCfg c (selectDec v status) = c := by
  cases v <;> rfl

/-- `ECCR` writes no state (R10). -/
theorem rowCfg_selectEccr (c : Cfg) (l : Layout) (index : Index) : rowCfg c (selectEccr l index) = c := by
  cases l <;> rfl

/-- `FREER` writes no state (R10). -/
theorem rowCfg_selectFreer (c : Cfg) (l : Layout) (index : Index) : rowCfg c (selectFreer l index) = c := by
  cases l <;> rfl

/-- An accepted `LDCFG` stores the low 19 bits of its word under `VALID = 1` (R65). -/
theorem cfgOfFields_of_req_toNat (q : Req) :
    (cfgOfFields 1#1 (reqEccv q) (reqLayout q) (reqOobsz q)).toNat = 0x80000 + q.toNat % 2 ^ 19 := by
  rw [cfgOfFields_toNat, reqEccv_toNat, reqLayout_toNat, reqOobsz_toNat, BitVec.toNat_ofNat]
  omega

/-- `CFG` after an `LDCFG` word: stored before configuration, kept after it (R65, R66). -/
theorem rowCfg_ldcfg_of_req_toNat (c : Cfg) (q : Req) :
    (rowCfg c (.ldcfg (variantOfBits (reqEccv q)) (layoutOfBits (reqLayout q)) (reqOobsz q))).toNat =
      if c.toNat / 2 ^ 19 = 0 then 0x80000 + q.toNat % 2 ^ 19 else c.toNat := by
  simp only [rowCfg, variantBits_variantOfBits, layoutBits_layoutOfBits, cfgValid_iff_div_ne_zero, ite_not]
  split_ifs
  · exact cfgOfFields_of_req_toNat q
  · rfl

/-- `CFG` after a request is the reference's: only the first `LDCFG` changes it (R10, R65, R66). -/
theorem cfg_refines_referenceCfg (c : Cfg) (q : Req) :
    (rowCfg c (decode c q)).toNat = referenceCfg c.toNat q.toNat := by
  rcases reqOp_cases q with h | h | h | h <;> simp only [referenceCfg, h]
  · rw [decode_of_op_zero c h, rowCfg_selectDec]
    rfl
  · rw [decode_of_op_one c h, rowCfg_selectEccr]
    rfl
  · rw [decode_of_op_two c h, rowCfg_selectFreer]
    rfl
  · rw [decode_of_op_three c h, rowCfg_ldcfg_of_req_toNat]
    simp only [true_and]

/-! ## One step -/

/-- The state after a request whose event is taken, `rest` still to come: the row has written `CFG` and its word is
answered. -/
def afterRequest (s : State) (q : Req) (rest : List HostEvent) : State :=
  ((s.withPending rest).withCfg (rowCfg s.cfg (decode s.cfg q))).withResponse
    (responseWord (rowResponse s.cfg (decode s.cfg q)))

@[simp] theorem afterRequest_cfg (s : State) (q : Req) (rest : List HostEvent) :
    (afterRequest s q rest).cfg = rowCfg s.cfg (decode s.cfg q) := rfl

@[simp] theorem afterRequest_pending (s : State) (q : Req) (rest : List HostEvent) :
    (afterRequest s q rest).pending = rest := rfl

@[simp] theorem afterRequest_responses (s : State) (q : Req) (rest : List HostEvent) :
    (afterRequest s q rest).responses = s.responses ++ [responseWord (rowResponse s.cfg (decode s.cfg q))] := rfl

/-- A request always steps to a next state, and this is the one. -/
theorem step_eq_afterRequest {s : State} {q : Req} {rest : List HostEvent} (h : s.pending = .request q :: rest) :
    step s = .next (afterRequest s q rest) := by
  rw [step_request h, exec_eq, State.withPending_cfg]
  rfl

/-! ## A whole run -/

/-- On any machine a run begins with its first step. -/
theorem coreRun_succ_of_step {M : Host.Core} {s t : M.State} (h : M.step s = .next t) (k : Nat) :
    M.run (k + 1) s = M.run k t := by
  rw [Host.Core.run, h]

/-- A run of the block begins with its first step. -/
theorem run_succ_of_step {s t : State} (h : step s = .next t) (k : Nat) :
    Sys2Proof.core.run (k + 1) s = Sys2Proof.core.run k t :=
  coreRun_succ_of_step (M := Sys2Proof.core) h k

/-- Running a sequence of events refines the reference, by induction on the sequence. -/
theorem run_refines_referenceRun (events : List HostEvent) (s : State) (h : s.pending = events) :
    ∃ t, Sys2Proof.core.run events.length s = .next t ∧ t.pending = [] ∧
      t.cfg.toNat = (referenceRun s.cfg.toNat events).1 ∧
      t.responses.map BitVec.toNat = s.responses.map BitVec.toNat ++ (referenceRun s.cfg.toNat events).2 := by
  induction events generalizing s with
  | nil => exact ⟨s, rfl, h, rfl, by simp [referenceRun]⟩
  | cons e rest ih =>
    cases e with
    | reset =>
      obtain ⟨t, hrun, hpending, hcfg, hresponses⟩ := ih (applyReset (s.withPending rest)) rfl
      exact ⟨t, (run_succ_of_step (step_reset h) _).trans hrun, hpending, hcfg, hresponses⟩
    | request q =>
      obtain ⟨t, hrun, hpending, hcfg, hresponses⟩ := ih (afterRequest s q rest) rfl
      rw [afterRequest_cfg, cfg_refines_referenceCfg] at hcfg hresponses
      refine ⟨t, (run_succ_of_step (step_eq_afterRequest h) _).trans hrun, hpending, hcfg, ?_⟩
      simpa [referenceRun, response_refines_referenceResponse] using hresponses

end Sys2Proof.Machine
end

section
/-! PROOF. The statements of spec/00_scope.md's family: steps, whole runs, and the tables under the parameters. -/

namespace Sys2Proof.Machine

/-- Settles O19, by induction on the host's events from the refinement of one request. -/
theorem runRefinesWordLevelReference : Obligations.RunRefinesWordLevelReference := fun s =>
  run_refines_referenceRun s.pending s rfl

/-- Settles O13: the step's equation for a request, with the taken event written as a record update. -/
theorem stepRunsDecodedRequest : Obligations.StepRunsDecodedRequest := fun _ _ _ h => step_request h

/-- Settles O16: the answer is the word of the row that the request decodes to under `CFG`, and no other word is one. -/
theorem everyRequestIsAnsweredOnce : Obligations.EveryRequestIsAnsweredOnce := by
  intro s q rest
  have hstep := step_eq_afterRequest (s := { s with pending := .request q :: rest }) (rest := rest) rfl
  refine ⟨_, responseWord (rowResponse s.cfg (decode s.cfg q)), hstep, afterRequest_pending _ _ _,
    afterRequest_responses _ _ _, fun w' hw' => ?_⟩
  exact (answers_iff (s := { s with pending := rest })).1 hw'

/-- Settles O40, by evaluating the table at its eight patterns. -/
theorem variantAUnderTheDefaults : Obligations.VariantAUnderTheDefaults :=
  ⟨by decide, by decide⟩

/-! ## The counts of unrecognized patterns -/

/-- The patterns of `w` bits that stand in a list of different patterns are as many as the list is long. -/
theorem length_filter_mem {w : Nat} {known : List (BitVec w)} (hnodup : known.Nodup) :
    ((List.range (2 ^ w)).filter fun n => decide (BitVec.ofNat w n ∈ known)).length = known.length := by
  rw [← List.length_map (as := known) BitVec.toNat]
  refine List.Perm.length_eq ((List.perm_ext_iff_of_nodup (List.nodup_range.filter _)
    (hnodup.map fun _ _ => BitVec.eq_of_toNat_eq)).2 fun n => ?_)
  simp only [List.mem_filter, List.mem_range, decide_eq_true_eq, List.mem_map]
  constructor
  · rintro ⟨hlt, hmem⟩
    exact ⟨_, hmem, by rw [BitVec.toNat_ofNat, Nat.mod_eq_of_lt hlt]⟩
  · rintro ⟨p, hmem, rfl⟩
    exact ⟨p.isLt, by rwa [BitVec.ofNat_toNat, BitVec.setWidth_eq]⟩

/-- A table of `w` bits that leaves out exactly what is none of `known` leaves out all but these. -/
theorem length_filter_unrecognized {w : Nat} {known : List (BitVec w)} {table : BitVec w → EccResult}
    (hnodup : known.Nodup) (htable : ∀ p, table p = .unrecognized ↔ p ∉ known) :
    ((List.range (2 ^ w)).filter fun n => table (BitVec.ofNat w n) == .unrecognized).length =
      2 ^ w - known.length := by
  have hfilter : (fun n => table (BitVec.ofNat w n) == .unrecognized) =
      fun n => !decide (BitVec.ofNat w n ∈ known) := by
    funext n
    rw [Bool.eq_iff_iff, beq_iff_eq, htable]
    simp
  have hsplit := List.length_eq_length_filter_add (l := List.range (2 ^ w))
    fun n => decide (BitVec.ofNat w n ∈ known)
  rw [length_filter_mem hnodup, List.length_range] at hsplit
  rw [hfilter]
  omega

/-- Variant A's table leaves out exactly what is none of its five patterns (R41). -/
theorem tableA_eq_unrecognized_iff {k : VariantAParams} (hk : k.wellFormed = true) (p : BitVec 3) :
    tableA k p = .unrecognized ↔ p ∉ [0b000#3, k.pa3, 0b010#3, k.pa6, 0b101#3] := by
  rw [tableA_eq_spec_order hk]
  split_ifs <;> simp [*]

/-- Variant B's table leaves out exactly what is none of its five patterns (R42). -/
theorem tableB_eq_unrecognized_iff (k : VariantBParams) (p : BitVec 4) :
    tableB k p = .unrecognized ↔ p ∉ [k.pbClean, k.pbUnc, k.pb3, k.pb6, k.pb8] := by
  rw [tableB]
  split_ifs <;> simp [*]

/-- The five patterns of Variant A are different (R5). -/
theorem knownPatternsA_nodup {k : VariantAParams} (hk : k.wellFormed = true) :
    [0b000#3, k.pa3, 0b010#3, k.pa6, 0b101#3].Nodup := by
  obtain ⟨⟨h30, h32, h35, -⟩, ⟨h60, h62, h65, -⟩, hne⟩ := paramsA_ne hk
  simp [h30.symm, h32, h35, h60.symm, h62.symm, h65, hne]

/-- The five patterns of Variant B are different (R5). -/
theorem knownPatternsB_nodup {k : VariantBParams} (hk : k.wellFormed = true) :
    [k.pbClean, k.pbUnc, k.pb3, k.pb6, k.pb8].Nodup :=
  of_decide_eq_true hk

/-- Settles O39: each table knows five different patterns, of 8 under Variant A and of 16 under Variant B. -/
theorem unrecognizedPatternCounts : Obligations.UnrecognizedPatternCounts := by
  constructor
  · intro k hk
    exact length_filter_unrecognized (knownPatternsA_nodup hk) (tableA_eq_unrecognized_iff hk)
  · intro k hk
    exact length_filter_unrecognized (knownPatternsB_nodup hk) (tableB_eq_unrecognized_iff k)

end Sys2Proof.Machine
end

section
/-! PROOF. What the statements of spec/10_state.md's family share: what one step can do, the request a word written by the
encoder is read as, the result a response word tells, the words the block can produce, and what the rows of `DEC` and of the
mapper read. -/

namespace Sys2Proof.Machine

/-! ## One step -/

/-- All that a step can do: nothing when the run is over, clear `CFG` on a `RESET`, or answer a request. -/
theorem step_cases {s t : State} (h : step s = .next t) :
    (s.pending = [] ∧ t = s) ∨
    (∃ rest, s.pending = .reset :: rest ∧ t = applyReset (s.withPending rest)) ∨
    (∃ q rest, s.pending = .request q :: rest ∧ t = afterRequest s q rest) := by
  cases hp : s.pending with
  | nil =>
    rw [step_idle hp] at h
    cases h
    exact .inl ⟨rfl, rfl⟩
  | cons e rest =>
    cases e with
    | reset =>
      rw [step_reset hp] at h
      cases h
      exact .inr (.inl ⟨rest, rfl, rfl⟩)
    | request q =>
      rw [step_eq_afterRequest hp] at h
      cases h
      exact .inr (.inr ⟨q, rest, rfl, rfl⟩)

/-- Only a word with `OP = 3` can write `CFG` (R10, R32). -/
theorem rowCfg_decode_of_lt (c : Cfg) {q : Req} (h : q.toNat < 0xC00000) : rowCfg c (decode c q) = c := by
  apply BitVec.eq_of_toNat_eq
  rw [cfg_refines_referenceCfg, referenceCfg, if_neg (by omega)]

/-- A row that leaves the block unconfigured has left `CFG` as it was (R65). -/
theorem rowCfg_eq_of_not_valid {c : Cfg} {i : Instr} (h : cfgValid (rowCfg c i) = false) : rowCfg c i = c := by
  cases i with
  | ldcfg v l size =>
    by_cases hc : cfgValid c = true
    · simp only [rowCfg, if_pos hc]
    · rw [rowCfg, if_neg hc, (cfgValid_cfgOfFields _ _ _ _).2 rfl] at h
      cases h
  | _ => rfl

/-! ## A word written by the encoder -/

theorem reqStatus_formatS (op : BitVec 2) (x : BitVec 14) (status : Status) :
    reqStatus (op ++ x ++ status) = status := by
  have hs := status.isLt
  rw [← BitVec.toNat_inj, reqStatus_toNat, formatS_toNat]
  omega

theorem reqIndex_formatX (op : BitVec 2) (index : Index) : reqIndex (op ++ index) = index := by
  have hi := index.isLt
  rw [← BitVec.toNat_inj, reqIndex_toNat, formatX_toNat]
  omega

theorem reqEccv_formatC (op : BitVec 2) (x : BitVec 3) (v : BitVec 1) (l : BitVec 2) (o : Offset) :
    reqEccv (op ++ x ++ v ++ l ++ o) = v := by
  have hv := v.isLt
  have hl := l.isLt
  have ho := o.isLt
  rw [← BitVec.toNat_inj, reqEccv_toNat, formatC_toNat]
  omega

theorem reqLayout_formatC (op : BitVec 2) (x : BitVec 3) (v : BitVec 1) (l : BitVec 2) (o : Offset) :
    reqLayout (op ++ x ++ v ++ l ++ o) = l := by
  have hl := l.isLt
  have ho := o.isLt
  rw [← BitVec.toNat_inj, reqLayout_toNat, formatC_toNat]
  omega

theorem reqOobsz_formatC (op : BitVec 2) (x : BitVec 3) (v : BitVec 1) (l : BitVec 2) (o : Offset) :
    reqOobsz (op ++ x ++ v ++ l ++ o) = o := by
  have ho := o.isLt
  rw [← BitVec.toNat_inj, reqOobsz_toNat, formatC_toNat]
  omega

/-- The decoder reads back the operation and the operand that a word is written from (R33, R39). -/
theorem decodeRequest_encodeRequest (r : Request) : decodeRequest (encodeRequest r) = r := by
  cases r with
  | dec status =>
    simp only [encodeRequest, decodeRequest, Laws.EncodedOp.reqOp_formatS, reqStatus_formatS, if_true]
  | eccr index =>
    simp only [encodeRequest, decodeRequest, Laws.EncodedOp.reqOp_append, reqIndex_formatX]
    rfl
  | freer index =>
    simp only [encodeRequest, decodeRequest, Laws.EncodedOp.reqOp_append, reqIndex_formatX]
    rfl
  | ldcfg v l size =>
    simp only [encodeRequest, decodeRequest, Laws.EncodedOp.reqOp_formatC, reqEccv_formatC, reqLayout_formatC,
      reqOobsz_formatC, variantOfBits_variantBits, layoutOfBits_layoutBits]
    rfl

/-- The answer to an operation's word is that of the row `CFG` selects (R39). -/
theorem answers_encodeRequest_iff {s : State} {r : Request} {w : Rsp} :
    Answers s (encodeRequest r) w ↔ w = responseWord (rowResponse s.cfg (selectRow s.cfg r)) := by
  rw [answers_iff, decode, decodeRequest_encodeRequest]

/-! ## The result a response word tells -/

@[simp] theorem rspRc_responseWord (r : Response) : rspRc (responseWord r) = resultCode r :=
  rspRc_packResponse _ _ _ _

/-- A word of the decoder is `CLEAN`'s exactly when the result is clean (R35). -/
theorem responseWord_ecc_eq_clean_iff {e : EccResult} :
    responseWord (.ecc e) = responseWord (.ecc .clean) ↔ e = .clean := by
  constructor
  · intro h
    have hrc := congrArg rspRc h
    rw [rspRc_responseWord, rspRc_responseWord] at hrc
    cases e with
    | clean => rfl
    | _ => exact absurd hrc (by simp only [resultCode]; decide)
  · rintro rfl
    rfl

/-- A word of the mapper is R35's `OUT_OF_RANGE` exactly when the result is the error. -/
theorem outOfRange_eq_responseWord_iff {x : RangeResult} :
    0xA00000000#36 = responseWord (.range x) ↔ x = outOfRange := by
  constructor
  · intro h
    have hrc := congrArg rspRc h
    rw [rspRc_responseWord] at hrc
    cases x with
    | error e => rfl
    | ok r => exact absurd hrc (by simp only [resultCode]; decide)
  · rintro rfl
    rfl

/-- A word of the mapper has `RC = 4` and `UNC = 0` exactly when the result is a range (R35). -/
theorem exists_packResponse_eq_responseWord_iff {x : RangeResult} :
    (∃ a b : Offset, packResponse 4#3 0#1 a b = responseWord (.range x)) ↔ ∃ r, x = .ok r := by
  constructor
  · rintro ⟨a, b, h⟩
    have hrc := congrArg rspRc h
    rw [rspRc_responseWord, rspRc_packResponse] at hrc
    cases x with
    | ok r => exact ⟨r, rfl⟩
    | error e => exact absurd hrc (by cases e; simp only [resultCode]; decide)
  · rintro ⟨r, rfl⟩
    exact ⟨r.start, r.stop, rfl⟩

/-! ## The words the block can produce -/

/-- The word of a range with ends of the mapper's is legal (R35). -/
theorem legalResponse_range {r : Range} (h : producibleEnds r.start.toNat r.stop.toNat = true) :
    legalResponse (responseWord (.range (.ok r))) = true := by
  have hfields : responseWord (.range (.ok r)) = packResponse 4#3 0#1 r.start r.stop := rfl
  simp [legalResponse, hfields, h]

/-- The mapper's error has R35's word. -/
theorem legalResponse_outOfRange : legalResponse (responseWord (.range outOfRange)) = true := by decide

/-- The index check answers a legal word when the range of a valid index has ends of the mapper's (R50). -/
theorem legalResponse_checkIndex {count : Nat} {index : Index} {r : Range}
    (h : index.toNat < count → producibleEnds r.start.toNat r.stop.toNat = true) :
    legalResponse (responseWord (.range (checkIndex count index r))) = true := by
  by_cases hi : index.toNat < count
  · rw [checkIndex_of_lt hi]
    exact legalResponse_range (h hi)
  · rw [checkIndex_of_le (Nat.le_of_not_lt hi)]
    exact legalResponse_outOfRange

theorem producibleEnds_eccRangeL4 {index : Index} (h : index.toNat < 4) :
    producibleEnds (eccRangeL4 index).start.toNat (eccRangeL4 index).stop.toNat = true := by
  obtain ⟨hstart, hstop⟩ := eccRangeL4_toNat h
  rw [hstart, hstop]
  generalize index.toNat = i at h
  interval_cases i <;> decide

theorem producibleEnds_freeRangeL4 {index : Index} (h : index.toNat < 4) :
    producibleEnds (freeRangeL4 index).start.toNat (freeRangeL4 index).stop.toNat = true := by
  obtain ⟨hstart, hstop⟩ := freeRangeL4_toNat h
  rw [hstart, hstop]
  generalize index.toNat = i at h
  interval_cases i <;> decide

theorem producibleEnds_eccRangeLP (o : Offset) :
    producibleEnds (eccRangeLP o).start.toNat (eccRangeLP o).stop.toNat = true :=
  decide_eq_true (.inl (half_toNat o))

theorem producibleEnds_freeRangeLP (o : Offset) :
    producibleEnds (freeRangeLP o).start.toNat (freeRangeLP o).stop.toNat = true := by
  have ho := o.isLt
  have hhalf : (freeRangeLP o).stop.toNat = o.toNat / 2 := half_toNat o
  exact decide_eq_true (.inr (.inl ⟨rfl, by omega⟩))

/-- Every result of the decoder has one of R35's words. -/
theorem legalResponse_ecc (e : EccResult) : legalResponse (responseWord (.ecc e)) = true := by
  cases e with
  | corrected band => cases band <;> decide
  | _ => decide

/-- Every result of `LDCFG` has one of R35's words. -/
theorem legalResponse_cfg (x : CfgResult) : legalResponse (responseWord (.cfg x)) = true := by
  cases x <;> decide

/-- Every row answers a word the block can produce, under every configuration (R35, R51 to R57). -/
theorem legalResponse_rowResponse (c : Cfg) (i : Instr) : legalResponse (responseWord (rowResponse c i)) = true := by
  cases i with
  | decA status => exact legalResponse_ecc _
  | decB status => exact legalResponse_ecc _
  | decU status => exact legalResponse_ecc _
  | eccrL4 index => exact legalResponse_checkIndex producibleEnds_eccRangeL4
  | eccrL1F index => exact legalResponse_checkIndex fun _ => by decide
  | eccrLP index => exact legalResponse_checkIndex fun _ => producibleEnds_eccRangeLP _
  | eccrZ index => exact legalResponse_outOfRange
  | freerL4 index => exact legalResponse_checkIndex producibleEnds_freeRangeL4
  | freerL1F index => exact legalResponse_checkIndex fun _ => by decide
  | freerLP index => exact legalResponse_checkIndex fun _ => producibleEnds_freeRangeLP _
  | freerZ index => exact legalResponse_outOfRange
  | ldcfg v l size => exact legalResponse_cfg _

/-! ## The rows of DEC -/

/-- Variant A answers by its table (R40, R41). -/
theorem answers_dec_of_variant_a {s : State} (h : variant s.cfg = .a) {status : Status} {w : Rsp} :
    Answers s (encodeRequest (.dec status)) w ↔ w = responseWord (.ecc (tableA paramsA (patternA status))) := by
  rw [answers_encodeRequest_iff, selectRow, h]
  rfl

/-- Variant B answers by its table (R40, R42). -/
theorem answers_dec_of_variant_b {s : State} (h : variant s.cfg = .b) {status : Status} {w : Rsp} :
    Answers s (encodeRequest (.dec status)) w ↔ w = responseWord (.ecc (tableB paramsB (patternB status))) := by
  rw [answers_encodeRequest_iff, selectRow, h]
  rfl

/-- The byte with the pattern `p` in its bits [7:4] (R42). -/
theorem patternB_append (p low : BitVec 4) : patternB (p ++ low) = p := by
  have hlow := low.isLt
  rw [← BitVec.toNat_inj, patternB_toNat, toNat_append_add]
  omega

/-- Bit 7 is the highest bit of Variant B's pattern, so flipping it gives another pattern (R42, R45). -/
theorem patternB_flip_bit7_ne (status : Status) : patternB (status ^^^ 0x80#8) ≠ patternB status := by
  have hxor : patternB (status ^^^ 0x80#8) = patternB status ^^^ 8#4 := BitVec.extractLsb'_xor
  rw [hxor]
  generalize patternB status = p
  revert p
  decide

/-- Variant B's table answers clean for one pattern alone (R42). -/
theorem tableB_eq_clean_iff (k : VariantBParams) (p : BitVec 4) : tableB k p = .clean ↔ p = k.pbClean := by
  rw [tableB]
  split_ifs with h <;> simp [h]

/-! ## The rows of the mapper -/

/-- A word with `OP` 1 or 2 is one of the mapper's two operations (R32, R50). -/
theorem decodeRequest_mem_mapper {q : Req} (hlo : 0x400000 ≤ q.toNat) (hhi : q.toNat < 0xC00000) :
    decodeRequest q ∈ [Request.eccr (reqIndex q), Request.freer (reqIndex q)] := by
  obtain h | h : q.toNat / 2 ^ 22 = 1 ∨ q.toNat / 2 ^ 22 = 2 := by omega
  · rw [decodeRequest, reqOp_eq_of_div_eq h]
    exact List.mem_cons_self
  · rw [decodeRequest, reqOp_eq_of_div_eq h]
    exact List.mem_cons_of_mem _ List.mem_cons_self

/-- Of `CFG` the mapper reads the layout, and the spare-area size under LP alone (R50 to R57). -/
theorem rowResponse_mapper_congr {c d : Cfg} {index : Index} {r : Request}
    (hr : r ∈ [Request.eccr index, Request.freer index]) (hl : layout c = layout d)
    (ho : layout c = .lp → cfgOobsz c = cfgOobsz d) :
    rowResponse c (selectRow c r) = rowResponse d (selectRow d r) := by
  simp only [List.mem_cons, List.not_mem_nil, or_false] at hr
  obtain rfl | rfl := hr
  · rw [selectRow, selectRow, ← hl]
    cases h : layout c with
    | lp => simp only [selectEccr, rowResponse, ho h]
    | _ => rfl
  · rw [selectRow, selectRow, ← hl]
    cases h : layout c with
    | lp => simp only [selectFreer, rowResponse, ho h]
    | _ => rfl

/-- Whatever the layout, the mapper's answer is the index check against the layout's count (R18, R50). Under layout Z the
count is 0, so the check answers the error for any range put into it. -/
theorem rowResponse_mapper_eq_checkIndex (c : Cfg) {index : Index} {r : Request}
    (hr : r ∈ [Request.eccr index, Request.freer index]) :
    ∃ x, rowResponse c (selectRow c r) = .range (checkIndex (regionCount (layout c)) index x) := by
  have hz : ∃ x, Response.range outOfRange = .range (checkIndex (regionCount .z) index x) :=
    ⟨⟨0, 0⟩, congrArg _ (checkIndex_of_le (Nat.zero_le _) _).symm⟩
  simp only [List.mem_cons, List.not_mem_nil, or_false] at hr
  obtain rfl | rfl := hr
  · rw [selectRow]
    cases layout c with
    | z => exact hz
    | _ => exact ⟨_, rfl⟩
  · rw [selectRow]
    cases layout c with
    | z => exact hz
    | _ => exact ⟨_, rfl⟩

end Sys2Proof.Machine
end

section
/-! PROOF. The statements of spec/10_state.md's family: reset, the invariant, and what an operation reads and leaves
unchanged. -/

namespace Sys2Proof.Machine

/-! ## The invariant -/

/-- Settles O20, by the three things a step can do: nothing, clear `CFG`, or answer a row's word after the row has written
`CFG`. -/
theorem invariantKeptByEveryStep : Obligations.InvariantKeptByEveryStep := by
  rintro s t ⟨hcfg, hwords⟩ hstep
  obtain ⟨-, rfl⟩ | ⟨rest, -, rfl⟩ | ⟨q, rest, -, rfl⟩ := step_cases hstep
  · exact ⟨hcfg, hwords⟩
  · exact ⟨fun _ => rfl, hwords⟩
  · refine ⟨fun hvalid => ?_, fun w hw => ?_⟩
    · rw [afterRequest_cfg] at hvalid ⊢
      have hkept := rowCfg_eq_of_not_valid hvalid
      rw [hkept] at hvalid ⊢
      exact hcfg hvalid
    · rw [afterRequest_responses, List.mem_append, List.mem_singleton] at hw
      obtain hold | rfl := hw
      · exact hwords w hold
      · exact legalResponse_rowResponse _ _

/-- Settles O21: `CFG` is 0 and no word has been read. -/
theorem invariantAtReset : Obligations.InvariantAtReset :=
  ⟨fun _ => rfl, fun _ hw => absurd hw List.not_mem_nil⟩

/-! ## Reset -/

/-- Settles O15, by evaluating the fields of `CFG = 0`. -/
theorem resetStateIsUnconfigured : Obligations.ResetStateIsUnconfigured :=
  ⟨rfl, rfl, rfl, rfl, rfl, rfl, rfl⟩

/-- Settles O27: the step decodes the placed word under the `CFG = 0` of reset, as the table's decoder does. -/
theorem tableWordRunsAsFirstStep : Obligations.TableWordRunsAsFirstStep := fun w =>
  ⟨decode 0#20 (tableReq 24 w), if_pos le_rfl, step_issueFirst _ _⟩

/-! ## What an operation reads and leaves unchanged -/

/-- Settles O32: the answer is the word of the row that `CFG` selects for the request. -/
theorem responseDependsOnCfgAndWordOnly : Obligations.ResponseDependsOnCfgAndWordOnly := by
  intro s t q w hcfg
  rw [answers_iff, answers_iff, hcfg]

/-- Settles O33: a request's step takes its event and leaves `CFG` to its row, and only an `LDCFG` row writes it. -/
theorem pureOperationsLeaveCfg : Obligations.PureOperationsLeaveCfg := by
  intro s t q rest hq hstep
  rw [step_eq_afterRequest rfl] at hstep
  cases hstep
  exact ⟨rowCfg_decode_of_lt s.cfg hq, afterRequest_pending _ _ _⟩

/-- Settles O48: the mapper reads the layout and, under LP, the spare-area size. -/
theorem mapperReadsOnlyItsFields : Obligations.MapperReadsOnlyItsFields := by
  intro s t q w hlo hhi hlayout hsize
  have hoobsz : layout s.cfg = .lp → cfgOobsz s.cfg = cfgOobsz t.cfg := fun hlp => by
    rw [← BitVec.toNat_inj, cfgOobsz_toNat, cfgOobsz_toNat]
    exact hsize hlp
  rw [answers_iff, answers_iff, decode, decode,
    rowResponse_mapper_congr (decodeRequest_mem_mapper hlo hhi) hlayout hoobsz]

/-- Settles O41: both operations answer the index check against the count of the layout. -/
theorem indexIsValidExactlyBelowTheCount : Obligations.IndexIsValidExactlyBelowTheCount := by
  intro s index count r hr
  have hcount : count = regionCount (layout s.cfg) := by
    simp only [count]
    cases layout s.cfg <;> rfl
  obtain ⟨x, hx⟩ := rowResponse_mapper_eq_checkIndex s.cfg hr
  simp only [answers_encodeRequest_iff, hx, hcount]
  refine ⟨outOfRange_eq_responseWord_iff.trans checkIndex_eq_error_iff,
    exists_packResponse_eq_responseWord_iff.trans ?_⟩
  simp only [checkIndex_eq_ok_iff, exists_and_left, exists_eq, and_true]

/-- Settles O38: each variant answers by the table of its pattern. Under Variant B the byte whose pattern is `PB_CLEAN` is
answered `CLEAN`, and with bit 7 flipped it has another pattern, so another answer. -/
theorem decReadsOnlyItsMask : Obligations.DecReadsOnlyItsMask := by
  refine ⟨fun s t a b w hs ht hbits => ?_, fun s t a b w hs ht hbits => ?_, fun s hs => ?_⟩
  · have hpattern : patternA a = patternA b := by
      rwa [← BitVec.toNat_inj, patternA_toNat, patternA_toNat]
    rw [answers_dec_of_variant_a hs, answers_dec_of_variant_a ht, hpattern]
  · have hpattern : patternB a = patternB b := by
      rwa [← BitVec.toNat_inj, patternB_toNat, patternB_toNat]
    rw [answers_dec_of_variant_b hs, answers_dec_of_variant_b ht, hpattern]
  · have hclean := patternB_append paramsB.pbClean 0#4
    have hflip := patternB_flip_bit7_ne (paramsB.pbClean ++ 0#4)
    rw [hclean] at hflip
    refine ⟨paramsB.pbClean ++ 0#4, responseWord (.ecc .clean), ?_, ?_⟩
    · rw [answers_dec_of_variant_b hs, hclean, (tableB_eq_clean_iff _ _).2 rfl]
    · rw [answers_dec_of_variant_b hs, eq_comm, responseWord_ecc_eq_clean_iff, tableB_eq_clean_iff]
      exact hflip

end Sys2Proof.Machine
end

section
/-! PROOF. What the statements of spec/20_memory.md's family share: the three offsets that bound the two ranges of a region
under each layout, the ranges the mapper answers in terms of them, and `WF(CFG)` as a fact about them. -/

namespace Sys2Proof.Machine

/-! ## Ranges as sets of bytes -/

/-- A byte of a range is at or after its start and before its end (R7). -/
theorem rangeHas_iff {r : Range} {b : Nat} :
    rangeHas r b = true ↔ r.start.toNat ≤ b ∧ b < r.stop.toNat := decide_eq_true_iff

/-- The spare-area size is the low 16 bits of `CFG` (R11). -/
theorem spareSize_eq (c : Cfg) : spareSize c = c.toNat % 65536 := cfgOobsz_toNat c

/-! ## The bounds of a region -/

/-- The offsets that bound the two ranges of a region. Under every layout the free range ends where the ECC range begins
(R28), so there are three of them and not four. -/
structure RegionBounds where
  /-- Where the free range starts. -/
  freeStart : Offset
  /-- Where the free range ends and the ECC range starts. -/
  boundary : Offset
  /-- Where the ECC range ends. -/
  eccStop : Offset

/-- The ECC range of a region, from the boundary on. -/
def RegionBounds.ecc (x : RegionBounds) : Range := ⟨x.boundary, x.eccStop⟩

/-- The free range of a region, up to the boundary. -/
def RegionBounds.free (x : RegionBounds) : Range := ⟨x.freeStart, x.boundary⟩

/-- The bounds of a region under a configuration (R51 to R56). Layout Z has no region: its bounds are never answered. -/
def regionBounds (c : Cfg) (index : Index) : RegionBounds :=
  match layout c with
  | .l4 => ⟨16#16 * regionOf index + 2#16, 16#16 * regionOf index + 8#16, 16#16 * regionOf index + 16#16⟩
  | .l1f => ⟨1#16, 64#16, 128#16⟩
  | .lp => ⟨2#16, cfgOobsz c >>> 1, cfgOobsz c⟩
  | .z => ⟨0#16, 0#16, 0#16⟩

/-- The bounds of a valid index under L4, as numbers (R51, R52). -/
theorem regionBounds_toNat_of_l4 {c : Cfg} {index : Index} (hl : layout c = .l4) (hi : index.toNat < 4) :
    (regionBounds c index).freeStart.toNat = 16 * index.toNat + 2 ∧
    (regionBounds c index).boundary.toNat = 16 * index.toNat + 8 ∧
    (regionBounds c index).eccStop.toNat = 16 * index.toNat + 16 := by
  obtain ⟨hfree, hboundary⟩ := freeRangeL4_toNat hi
  obtain ⟨-, hecc⟩ := eccRangeL4_toNat hi
  simp only [regionBounds, hl]
  exact ⟨hfree, hboundary, hecc⟩

/-- The bounds under L1F, as numbers (R53, R54). -/
theorem regionBounds_toNat_of_l1f {c : Cfg} (index : Index) (hl : layout c = .l1f) :
    (regionBounds c index).freeStart.toNat = 1 ∧ (regionBounds c index).boundary.toNat = 64 ∧
    (regionBounds c index).eccStop.toNat = 128 := by
  simp only [regionBounds, hl]
  exact ⟨rfl, rfl, rfl⟩

/-- The bounds under LP, as numbers (R55, R56). -/
theorem regionBounds_toNat_of_lp {c : Cfg} (index : Index) (hl : layout c = .lp) :
    (regionBounds c index).freeStart.toNat = 2 ∧ (regionBounds c index).boundary.toNat = spareSize c / 2 ∧
    (regionBounds c index).eccStop.toNat = spareSize c := by
  simp only [regionBounds, hl]
  exact ⟨rfl, half_toNat _, rfl⟩

/-! ## The ranges the mapper answers -/

/-- `ECCR` under every layout is the index check on the ECC range of the region (R50). -/
theorem rowResponse_eccr (c : Cfg) (index : Index) :
    rowResponse c (selectRow c (.eccr index)) =
      .range (checkIndex (regionCount (layout c)) index (regionBounds c index).ecc) := by
  simp only [selectRow, regionBounds]
  cases layout c with
  | z => exact congrArg _ (checkIndex_of_le (Nat.zero_le _) _).symm
  | _ => rfl

/-- `FREER` under every layout is the index check on the free range of the region (R50). -/
theorem rowResponse_freer (c : Cfg) (index : Index) :
    rowResponse c (selectRow c (.freer index)) =
      .range (checkIndex (regionCount (layout c)) index (regionBounds c index).free) := by
  simp only [selectRow, regionBounds]
  cases layout c with
  | z => exact congrArg _ (checkIndex_of_le (Nat.zero_le _) _).symm
  | _ => rfl

/-- `DEC` under every variant answers a result of the decoder (R40). -/
theorem rowResponse_dec (c : Cfg) (status : Status) :
    ∃ e, rowResponse c (selectRow c (.dec status)) = .ecc e := by
  rw [selectRow]
  cases variant c <;> exact ⟨_, rfl⟩

/-- Of the result codes only a range's is 4 (R35). -/
theorem exists_range_of_resultCode {x : Response} (h : resultCode x = 4#3) : ∃ r, x = .range (.ok r) := by
  cases x with
  | ecc e => cases e <;> exact absurd h (by simp [resultCode])
  | range x =>
    cases x with
    | ok r => exact ⟨r, rfl⟩
    | error e => exact absurd h (by simp [resultCode])
  | cfg x => cases x <;> exact absurd h (by simp [resultCode])

/-- A range's word is the word of that range alone (R35). -/
theorem packResponse_range_eq_responseWord_iff {r : Range} {x : Response} :
    packResponse 4#3 0#1 r.start r.stop = responseWord x ↔ x = .range (.ok r) := by
  constructor
  · intro h
    obtain ⟨⟨a, b⟩, rfl⟩ := exists_range_of_resultCode (x := x)
      (by rw [← rspRc_responseWord, ← h, rspRc_packResponse])
    have hstart : r.start = a := by simpa [responseWord, payloadA] using congrArg rspA h
    have hstop : r.stop = b := by simpa [responseWord, payloadB] using congrArg rspB h
    rw [← hstart, ← hstop]
  · rintro rfl
    rfl

/-- `ECCR` answers a range exactly for a valid index, and then the region's ECC range. -/
theorem answers_eccr_range_iff {s : State} {index : Index} {r : Range} :
    Answers s (encodeRequest (.eccr index)) (packResponse 4#3 0#1 r.start r.stop) ↔
      index.toNat < regionCount (layout s.cfg) ∧ r = (regionBounds s.cfg index).ecc := by
  rw [answers_encodeRequest_iff, rowResponse_eccr, packResponse_range_eq_responseWord_iff, Response.range.injEq,
    checkIndex_eq_ok_iff]

/-- `FREER` answers a range exactly for a valid index, and then the region's free range. -/
theorem answers_freer_range_iff {s : State} {index : Index} {r : Range} :
    Answers s (encodeRequest (.freer index)) (packResponse 4#3 0#1 r.start r.stop) ↔
      index.toNat < regionCount (layout s.cfg) ∧ r = (regionBounds s.cfg index).free := by
  rw [answers_encodeRequest_iff, rowResponse_freer, packResponse_range_eq_responseWord_iff, Response.range.injEq,
    checkIndex_eq_ok_iff]

/-- A range answered by either operation of the mapper is one of its region's two. -/
theorem range_of_answers_mapper {s : State} {index : Index} {r : Range}
    (h : ∃ q ∈ [Request.eccr index, Request.freer index],
      Answers s (encodeRequest q) (packResponse 4#3 0#1 r.start r.stop)) :
    index.toNat < regionCount (layout s.cfg) ∧
      (r = (regionBounds s.cfg index).ecc ∨ r = (regionBounds s.cfg index).free) := by
  obtain ⟨q, hq, ha⟩ := h
  simp only [List.mem_cons, List.not_mem_nil, or_false] at hq
  obtain rfl | rfl := hq
  · obtain ⟨hi, hr⟩ := answers_eccr_range_iff.1 ha
    exact ⟨hi, .inl hr⟩
  · obtain ⟨hi, hr⟩ := answers_freer_range_iff.1 ha
    exact ⟨hi, .inr hr⟩

/-- Only a word of the mapper's two operations is answered with a range (R35). -/
theorem answers_mapper_of_answers_range {s : State} {q : Req} {r : Range}
    (h : Answers s q (packResponse 4#3 0#1 r.start r.stop)) :
    ∃ index, ∃ p ∈ [Request.eccr index, Request.freer index],
      Answers s (encodeRequest p) (packResponse 4#3 0#1 r.start r.stop) := by
  have hrow := packResponse_range_eq_responseWord_iff.1 (answers_iff.1 h)
  rw [decode] at hrow
  have ha : Answers s (encodeRequest (decodeRequest q)) (packResponse 4#3 0#1 r.start r.stop) := by
    rwa [answers_encodeRequest_iff, ← decode, ← answers_iff]
  cases hp : decodeRequest q with
  | dec status =>
    obtain ⟨e, he⟩ := rowResponse_dec s.cfg status
    rw [hp, he] at hrow
    cases hrow
  | eccr index => exact ⟨index, .eccr index, List.mem_cons_self, hp ▸ ha⟩
  | freer index => exact ⟨index, .freer index, List.mem_cons_of_mem _ List.mem_cons_self, hp ▸ ha⟩
  | ldcfg v l size =>
    rw [hp] at hrow
    cases hrow

/-! ## The order of the bounds -/

/-- The ECC range of a valid index is never inverted, whatever the spare-area size (R29). -/
theorem boundary_le_eccStop {c : Cfg} {index : Index} (hi : index.toNat < regionCount (layout c)) :
    (regionBounds c index).boundary.toNat ≤ (regionBounds c index).eccStop.toNat := by
  cases hl : layout c with
  | l4 =>
    rw [hl] at hi
    obtain ⟨-, hboundary, hecc⟩ := regionBounds_toNat_of_l4 hl hi
    omega
  | l1f =>
    obtain ⟨-, hboundary, hecc⟩ := regionBounds_toNat_of_l1f index hl
    omega
  | lp =>
    obtain ⟨-, hboundary, hecc⟩ := regionBounds_toNat_of_lp index hl
    omega
  | z =>
    rw [hl] at hi
    exact absurd hi (Nat.not_lt_zero _)

/-- Where a region's free range is not inverted, no byte of its two ranges is before that range's start. -/
theorem freeStart_le_of_rangeHas {x : RegionBounds} {r : Range} {b : Nat}
    (hx : x.freeStart.toNat ≤ x.boundary.toNat) (hr : r = x.ecc ∨ r = x.free) (hb : rangeHas r b = true) :
    x.freeStart.toNat ≤ b := by
  obtain rfl | rfl := hr
  · exact hx.trans (rangeHas_iff.1 hb).1
  · exact (rangeHas_iff.1 hb).1

/-- The least spare-area size that holds the regions of a layout (R29). -/
def minSpareSize : Layout → Nat
  | .l4 => 64
  | .l1f => 128
  | .lp => 4
  | .z => 0

/-- `WF(CFG)` by the layout (R18, R29). -/
theorem wellFormedGeometry_iff_minSpareSize (c : Cfg) :
    wellFormedGeometry c = true ↔ layout c ≠ .z ∧ minSpareSize (layout c) ≤ spareSize c := by
  simp only [wellFormedGeometry, layout]
  split_ifs with hv h4 h1 hp
  · simp [hv, h4, minSpareSize]
  · simp [hv, h1, minSpareSize]
  · simp [hv, hp, minSpareSize]
  · simp [h4, h1, hp]
  · simp [hv]

/-- `WF(CFG)` says of every valid index that its bounds are in order and inside the spare area (R29). -/
theorem wellFormedGeometry_iff_bounds {c : Cfg} (hz : layout c ≠ .z) :
    wellFormedGeometry c = true ↔ ∀ index : Index, index.toNat < regionCount (layout c) →
      (regionBounds c index).freeStart.toNat ≤ (regionBounds c index).boundary.toNat ∧
      (regionBounds c index).eccStop.toNat ≤ spareSize c := by
  rw [wellFormedGeometry_iff_minSpareSize, and_iff_right hz]
  cases hl : layout c with
  | l4 =>
    constructor
    · intro hsize index hi
      obtain ⟨hfree, hboundary, hecc⟩ := regionBounds_toNat_of_l4 hl hi
      simp only [minSpareSize, regionCount] at hsize hi
      omega
    · intro h
      obtain ⟨-, -, hecc⟩ := regionBounds_toNat_of_l4 (index := 3#22) hl (by decide)
      have hinside := (h 3#22 (by decide)).2
      rwa [hecc] at hinside
  | l1f =>
    constructor
    · intro hsize index _
      obtain ⟨hfree, hboundary, hecc⟩ := regionBounds_toNat_of_l1f index hl
      simp only [minSpareSize] at hsize
      omega
    · intro h
      obtain ⟨-, -, hecc⟩ := regionBounds_toNat_of_l1f 0#22 hl
      have hinside := (h 0#22 (by decide)).2
      rwa [hecc] at hinside
  | lp =>
    constructor
    · intro hsize index _
      obtain ⟨hfree, hboundary, hecc⟩ := regionBounds_toNat_of_lp index hl
      simp only [minSpareSize] at hsize
      omega
    · intro h
      obtain ⟨hfree, hboundary, -⟩ := regionBounds_toNat_of_lp 0#22 hl
      have horder := (h 0#22 (by decide)).1
      simp only [minSpareSize]
      omega
  | z => exact absurd hl hz

end Sys2Proof.Machine
end

section
/-! PROOF. The statements of spec/20_memory.md's family: repeated requests, and the mapper's ranges against the maps of the
spare area. -/

namespace Sys2Proof.Machine

/-! ## Repeated requests -/

/-- A word with `OP = 3` leaves the block configured (R65, R66). -/
theorem cfgValid_rowCfg_of_ldcfg_word (c : Cfg) {q : Req} (hq : 0xC00000 ≤ q.toNat) :
    cfgValid (rowCfg c (decode c q)) = true := by
  have hlt := q.isLt
  rw [cfgValid_iff, cfg_refines_referenceCfg, referenceCfg]
  split_ifs <;> omega

/-- A configured block ignores every word with `OP = 3` (R66). -/
theorem answers_ignored_of_ldcfg_word {s : State} {q : Req} (hs : cfgValid s.cfg = true)
    (hq : 0xC00000 ≤ q.toNat) : Answers s q 0xE00000000#36 := by
  have hlt := q.isLt
  rw [answers_iff, decode_of_op_three s.cfg (by omega), rowResponse, if_pos hs]
  rfl

/-- Settles O35: below `OP = 3` the step leaves `CFG`, which alone decides the answer; an `LDCFG` leaves the block
configured, and a configured block ignores the next. -/
theorem repeatedRequests : Obligations.RepeatedRequests := by
  intro s t q w hw hstep
  refine ⟨fun hq => ?_, fun hq q' hq' => answers_ignored_of_ldcfg_word ?_ hq'⟩
  · obtain ⟨hcfg, -⟩ := pureOperationsLeaveCfg s t q s.pending hq hstep
    exact (responseDependsOnCfgAndWordOnly s t q w hcfg.symm).1 hw
  · rw [step_eq_afterRequest rfl] at hstep
    cases hstep
    exact cfgValid_rowCfg_of_ldcfg_word s.cfg hq

/-! ## Ranges that stay apart -/

/-- Settles O42: the two ranges meet at the region's boundary. -/
theorem eccAndFreeRangesAdjacentAndDisjoint : Obligations.EccAndFreeRangesAdjacentAndDisjoint := by
  intro s index e f he hf
  obtain ⟨-, rfl⟩ := answers_eccr_range_iff.1 he
  obtain ⟨-, rfl⟩ := answers_freer_range_iff.1 hf
  refine ⟨rfl, fun b ⟨hecc, hfree⟩ => ?_⟩
  have hafter := (rangeHas_iff.1 hecc).1
  have hbefore := (rangeHas_iff.1 hfree).2
  exact absurd hbefore (Nat.not_lt.2 hafter)

/-- Under L4 both ranges of a region lie within its 16 bytes (R24). -/
theorem l4_range_within_region {s : State} {index : Index} {r : Range} (hl : layout s.cfg = .l4)
    (h : ∃ q ∈ [Request.eccr index, Request.freer index],
      Answers s (encodeRequest q) (packResponse 4#3 0#1 r.start r.stop)) :
    16 * index.toNat ≤ r.start.toNat ∧ r.stop.toNat ≤ 16 * index.toNat + 16 := by
  obtain ⟨hi, hr⟩ := range_of_answers_mapper h
  rw [hl] at hi
  obtain ⟨hfree, hboundary, hecc⟩ := regionBounds_toNat_of_l4 hl hi
  obtain rfl | rfl := hr
  · simp only [RegionBounds.ecc]
    omega
  · simp only [RegionBounds.free]
    omega

/-- Settles O43: the 16 bytes of different regions are apart. -/
theorem l4RegionsStayApart : Obligations.L4RegionsStayApart := by
  intro s i j r t hl hij hr ht
  have hri := l4_range_within_region hl hr
  have htj := l4_range_within_region hl ht
  refine ⟨hri, fun b ⟨hbr, hbt⟩ => hij (BitVec.eq_of_toNat_eq ?_)⟩
  rw [rangeHas_iff] at hbr hbt
  omega

/-! ## The maps of the spare area -/

/-- The map gives a byte to an ECC region exactly when it is in the range of the region's bounds (R24, R25, R26). -/
theorem isEccByte_iff (c : Cfg) (index : Index) (b : Nat) :
    isEccByte c index.toNat b = true ↔
      index.toNat < regionCount (layout c) ∧ rangeHas (regionBounds c index).ecc b = true := by
  simp only [rangeHas_iff, RegionBounds.ecc]
  cases hl : layout c with
  | l4 =>
    simp only [isEccByte, hl, decide_eq_true_eq, regionCount]
    refine and_congr_right fun hi => ?_
    obtain ⟨-, hboundary, hecc⟩ := regionBounds_toNat_of_l4 hl hi
    omega
  | l1f =>
    obtain ⟨-, hboundary, hecc⟩ := regionBounds_toNat_of_l1f index hl
    simp only [isEccByte, hl, decide_eq_true_eq, regionCount]
    omega
  | lp =>
    obtain ⟨-, hboundary, hecc⟩ := regionBounds_toNat_of_lp index hl
    simp only [isEccByte, hl, decide_eq_true_eq, regionCount]
    omega
  | z => simp [isEccByte, hl, regionCount]

/-- The map gives a byte to a free region exactly when it is in the range of the region's bounds (R24, R25, R26). -/
theorem isFreeByte_iff (c : Cfg) (index : Index) (b : Nat) :
    isFreeByte c index.toNat b = true ↔
      index.toNat < regionCount (layout c) ∧ rangeHas (regionBounds c index).free b = true := by
  simp only [rangeHas_iff, RegionBounds.free]
  cases hl : layout c with
  | l4 =>
    simp only [isFreeByte, hl, decide_eq_true_eq, regionCount]
    refine and_congr_right fun hi => ?_
    obtain ⟨hfree, hboundary, -⟩ := regionBounds_toNat_of_l4 hl hi
    omega
  | l1f =>
    obtain ⟨hfree, hboundary, -⟩ := regionBounds_toNat_of_l1f index hl
    simp only [isFreeByte, hl, decide_eq_true_eq, regionCount]
    omega
  | lp =>
    obtain ⟨hfree, hboundary, -⟩ := regionBounds_toNat_of_lp index hl
    simp only [isFreeByte, hl, decide_eq_true_eq, regionCount]
    omega
  | z => simp [isFreeByte, hl, regionCount]

/-- Settles O44: the one range answered for a valid index, and the map, both are the range of the region's bounds. -/
theorem mapperAgreesWithTheSpareAreaMaps : Obligations.MapperAgreesWithTheSpareAreaMaps := by
  intro s index b
  simp only [answers_eccr_range_iff, answers_freer_range_iff, isEccByte_iff, isFreeByte_iff, and_assoc,
    exists_and_left, exists_eq_left, and_self]

/-! ## Well-formed geometry -/

/-- Settles O45: `WF(CFG)` orders the bounds of every region below the spare-area size, and the two ranges of a region are
between its bounds. -/
theorem wellFormedGeometryIsContainment : Obligations.WellFormedGeometryIsContainment := by
  intro s hz
  rw [wellFormedGeometry_iff_bounds hz, ← spareSize_eq]
  constructor
  · rintro hbounds index r (h | h)
    · obtain ⟨hi, rfl⟩ := answers_eccr_range_iff.1 h
      exact ⟨boundary_le_eccStop hi, (hbounds index hi).2⟩
    · obtain ⟨hi, rfl⟩ := answers_freer_range_iff.1 h
      obtain ⟨horder, hinside⟩ := hbounds index hi
      exact ⟨horder, (boundary_le_eccStop hi).trans hinside⟩
  · intro hranges index hi
    obtain ⟨-, hecc⟩ := hranges index _ (.inl (answers_eccr_range_iff.2 ⟨hi, rfl⟩))
    obtain ⟨hfree, -⟩ := hranges index _ (.inr (answers_freer_range_iff.2 ⟨hi, rfl⟩))
    exact ⟨hfree, hecc⟩

/-- Settles O47: under `WF(CFG)` the bounds of a region are in order, so its lengths are the differences of their
numbers. -/
theorem rangeLengthsDoNotWrap : Obligations.RangeLengthsDoNotWrap := by
  intro s index e f hwf he hf
  obtain ⟨hi, rfl⟩ := answers_eccr_range_iff.1 he
  obtain ⟨-, rfl⟩ := answers_freer_range_iff.1 hf
  obtain ⟨hz, -⟩ := (wellFormedGeometry_iff_minSpareSize s.cfg).1 hwf
  have hecc := boundary_le_eccStop hi
  have hfree := ((wellFormedGeometry_iff_bounds hz).1 hwf index hi).1
  refine ⟨hecc, hfree, ?_⟩
  simp only [RegionBounds.ecc, RegionBounds.free, BitVec.toNat_sub_of_le hecc, BitVec.toNat_sub_of_le hfree,
    ← spareSize_eq]
  cases hl : layout s.cfg with
  | l4 =>
    rw [hl] at hi
    obtain ⟨h1, h2, h3⟩ := regionBounds_toNat_of_l4 hl hi
    simp only [h1, h2, h3, Prod.mk.injEq]
    omega
  | l1f =>
    obtain ⟨h1, h2, h3⟩ := regionBounds_toNat_of_l1f index hl
    rw [h1, h2, h3]
  | lp =>
    obtain ⟨h1, h2, h3⟩ := regionBounds_toNat_of_lp index hl
    rw [h1, h2, h3]
  | z => exact absurd hl hz

/-! ## The bad-block marker -/

/-- Settles O46: no range of a region whose free range is upright starts before that range, which leaves the marker out;
under LP with a size below 4 the region's boundary is itself a marker byte. -/
theorem markerBytesStayReserved : Obligations.MarkerBytesStayReserved := by
  simp only [Obligations.MarkerBytesStayReserved, ← spareSize_eq]
  refine ⟨fun s q r b ha hb => ?_, fun s hl hlo hhi => ?_⟩
  · obtain ⟨index, hindex⟩ := answers_mapper_of_answers_range ha
    obtain ⟨-, hr⟩ := range_of_answers_mapper hindex
    refine ⟨fun hl => ?_, fun hl hsize => ?_⟩
    · obtain ⟨hfree, hboundary, -⟩ := regionBounds_toNat_of_l1f index hl
      have hb' := freeStart_le_of_rangeHas (by omega) hr hb
      omega
    · obtain ⟨hfree, hboundary, -⟩ := regionBounds_toNat_of_lp index hl
      have hb' := freeStart_le_of_rangeHas (by omega) hr hb
      omega
  · obtain ⟨-, hboundary, hecc⟩ := regionBounds_toNat_of_lp 0#22 hl
    refine ⟨(regionBounds s.cfg 0#22).ecc, spareSize s.cfg / 2,
      answers_eccr_range_iff.2 ⟨by rw [hl]; decide, rfl⟩, rangeHas_iff.2 ?_, by omega⟩
    simp only [RegionBounds.ecc]
    omega

end Sys2Proof.Machine
end

section
/-! PROOF. What the statements of spec/30_encoding.md's family share: the row an operation selects, the fields of a request
word as numbers, its reserved bits, the reading of a response word, the assembler's lines, and a step on any event. -/

namespace Sys2Proof.Machine

/-! ## The row an operation selects -/

/-- The mode chooses among the rows of an operation and leaves the operation and its operand as they are (R37). -/
theorem request_selectRow (c : Cfg) (r : Request) : (selectRow c r).request = r := by
  cases r with
  | dec status =>
    rw [selectRow]
    cases variant c <;> rfl
  | eccr index =>
    rw [selectRow]
    cases layout c <;> rfl
  | freer index =>
    rw [selectRow]
    cases layout c <;> rfl
  | ldcfg v l size => rfl

/-- An instruction's mode holds exactly when `CFG` selects its row for its operation (R37, R39). -/
theorem wellFormed_iff_selectRow_request {c : Cfg} {i : Instr} :
    i.wellFormed c = true ↔ selectRow c i.request = i := by
  cases i with
  | decA status | decB status | decU status =>
    simp only [Instr.wellFormed, Instr.request, selectRow]
    cases variant c <;> simp [selectDec]
  | eccrL4 index | eccrL1F index | eccrLP index | eccrZ index =>
    simp only [Instr.wellFormed, Instr.request, selectRow]
    cases layout c <;> simp [selectEccr]
  | freerL4 index | freerL1F index | freerLP index | freerZ index =>
    simp only [Instr.wellFormed, Instr.request, selectRow]
    cases layout c <;> simp [selectFreer]
  | ldcfg v l size => simp [Instr.wellFormed, Instr.request, selectRow]

/-! ## The fields of a request word as numbers -/

theorem reqStatus_eq_ofNat (q : Req) : reqStatus q = BitVec.ofNat 8 q.toNat := by
  rw [← BitVec.toNat_inj, reqStatus_toNat, BitVec.toNat_ofNat]

theorem reqIndex_eq_ofNat (q : Req) : reqIndex q = BitVec.ofNat 22 q.toNat := by
  rw [← BitVec.toNat_inj, reqIndex_toNat, BitVec.toNat_ofNat]

theorem reqOobsz_eq_ofNat (q : Req) : reqOobsz q = BitVec.ofNat 16 q.toNat := by
  rw [← BitVec.toNat_inj, reqOobsz_toNat, BitVec.toNat_ofNat]

/-- The variant a request word names, with its test on numbers (R33). -/
theorem variantOfBits_reqEccv (q : Req) :
    variantOfBits (reqEccv q) = if q.toNat / 2 ^ 18 % 2 = 0 then .a else .b := by
  simp only [variantOfBits, ← BitVec.toNat_inj, reqEccv_toNat, BitVec.toNat_ofNat]

/-- The layout a request word names, with its tests on numbers (R33). -/
theorem layoutOfBits_reqLayout (q : Req) :
    layoutOfBits (reqLayout q) =
      if q.toNat / 2 ^ 16 % 4 = 0 then .l4
      else if q.toNat / 2 ^ 16 % 4 = 1 then .l1f
      else if q.toNat / 2 ^ 16 % 4 = 2 then .lp
      else .l3 := by
  simp only [layoutOfBits, ← BitVec.toNat_inj, reqLayout_toNat, BitVec.toNat_ofNat]

/-! ## The reserved bits of a request word -/

/-- Of a `DEC` word the decoder reads bits [7:0] alone (R33, R36). -/
theorem decode_congr_of_op_zero (c : Cfg) {p q : Req} (hp : p.toNat / 2 ^ 22 = 0) (hq : q.toNat / 2 ^ 22 = 0)
    (hbits : p.toNat % 2 ^ 8 = q.toNat % 2 ^ 8) : decode c p = decode c q := by
  have hstatus : reqStatus p = reqStatus q := by
    rw [← BitVec.toNat_inj, reqStatus_toNat, reqStatus_toNat, hbits]
  rw [decode_of_op_zero c hp, decode_of_op_zero c hq, hstatus]

/-- Of an `LDCFG` word the decoder reads bits [18:0] alone (R33, R36). -/
theorem decode_congr_of_op_three (c : Cfg) {p q : Req} (hp : p.toNat / 2 ^ 22 = 3) (hq : q.toNat / 2 ^ 22 = 3)
    (hbits : p.toNat % 2 ^ 19 = q.toNat % 2 ^ 19) : decode c p = decode c q := by
  have heccv : reqEccv p = reqEccv q := by
    rw [← BitVec.toNat_inj, reqEccv_toNat, reqEccv_toNat]
    omega
  have hlayout : reqLayout p = reqLayout q := by
    rw [← BitVec.toNat_inj, reqLayout_toNat, reqLayout_toNat]
    omega
  have hoobsz : reqOobsz p = reqOobsz q := by
    rw [← BitVec.toNat_inj, reqOobsz_toNat, reqOobsz_toNat]
    omega
  rw [decode_of_op_three c hp, decode_of_op_three c hq, heccv, hlayout, hoobsz]

/-- A request word cut into the fields of format S, the reserved bits [21:8] in the middle (R33). -/
theorem formatS_of_req (q : Req) : reqOp q ++ q.extractLsb' 8 14 ++ reqStatus q = q := by
  rw [← BitVec.toNat_inj, formatS_toNat, reqOp_toNat, toNat_slice, reqStatus_toNat]
  omega

/-- A request word cut into the fields of format X, which has no reserved bits (R33). -/
theorem formatX_of_req (q : Req) : reqOp q ++ reqIndex q = q := by
  rw [← BitVec.toNat_inj, formatX_toNat, reqOp_toNat, reqIndex_toNat]
  omega

/-- A request word cut into the fields of format C, the reserved bits [21:19] behind the operation (R33). -/
theorem formatC_of_req (q : Req) :
    reqOp q ++ q.extractLsb' 19 3 ++ reqEccv q ++ reqLayout q ++ reqOobsz q = q := by
  rw [← BitVec.toNat_inj, formatC_toNat, reqOp_toNat, toNat_slice, reqEccv_toNat, reqLayout_toNat, reqOobsz_toNat]
  omega

/-- The mask of format S clears the reserved bits and keeps every other (R33). -/
theorem formatS_and_mask (op : BitVec 2) (x : BitVec 14) (status : Status) :
    (op ++ x ++ status : Req) &&& 0xC000FF#24 = op ++ 0#14 ++ status := by
  have hmask : 0xC000FF#24 = BitVec.allOnes 2 ++ 0#14 ++ BitVec.allOnes 8 := by decide
  rw [hmask, BitVec.and_append, BitVec.and_append, BitVec.and_allOnes, BitVec.and_zero, BitVec.and_allOnes]

/-- The mask of format C clears the reserved bits and keeps every other (R33). -/
theorem formatC_and_mask (op : BitVec 2) (x : BitVec 3) (v : BitVec 1) (l : BitVec 2) (o : Offset) :
    (op ++ x ++ v ++ l ++ o : Req) &&& 0xC7FFFF#24 = op ++ 0#3 ++ v ++ l ++ o := by
  have hmask : 0xC7FFFF#24 =
      BitVec.allOnes 2 ++ 0#3 ++ BitVec.allOnes 1 ++ BitVec.allOnes 2 ++ BitVec.allOnes 16 := by decide
  rw [hmask, BitVec.and_append, BitVec.and_append, BitVec.and_append, BitVec.and_append, BitVec.and_allOnes,
    BitVec.and_zero, BitVec.and_allOnes, BitVec.and_allOnes, BitVec.and_allOnes]

/-- An `LDCFG` read from its two coded fields is written with the same codes (R33). -/
theorem encodeRequest_ldcfg_of_bits (v : BitVec 1) (l : BitVec 2) (o : Offset) :
    encodeRequest (.ldcfg (variantOfBits v) (layoutOfBits l) o) = 3#2 ++ 0#3 ++ v ++ l ++ o := by
  rw [encodeRequest, variantBits_variantOfBits, layoutBits_layoutOfBits]

/-- Writing what a word was read as gives the word with its reserved bits cleared (R33, R36). -/
theorem encodeRequest_decodeRequest (q : Req) :
    encodeRequest (decodeRequest q) =
      if q.toNat < 0x400000 then q &&& 0xC000FF#24
      else if q.toNat < 0xC00000 then q else q &&& 0xC7FFFF#24 := by
  rcases reqOp_cases q with h | h | h | h
  · rw [if_pos (by omega)]
    conv_rhs => rw [← formatS_of_req q, formatS_and_mask]
    rw [decodeRequest, reqOp_eq_of_div_eq h]
    rfl
  · rw [if_neg (by omega), if_pos (by omega)]
    conv_rhs => rw [← formatX_of_req q]
    rw [decodeRequest, reqOp_eq_of_div_eq h]
    rfl
  · rw [if_neg (by omega), if_pos (by omega)]
    conv_rhs => rw [← formatX_of_req q]
    rw [decodeRequest, reqOp_eq_of_div_eq h]
    rfl
  · rw [if_neg (by omega), if_neg (by omega)]
    conv_rhs => rw [← formatC_of_req q, formatC_and_mask]
    rw [decodeRequest, reqOp_eq_of_div_eq h]
    exact encodeRequest_ldcfg_of_bits _ _ _

/-! ## The assembler's lines -/

theorem encodeRequest_dec_ofNat {n : Nat} (h : n ≤ 255) :
    encodeRequest (.dec (BitVec.ofNat 8 n)) = BitVec.ofNat 24 n := by
  rw [encodeRequest, ← BitVec.toNat_inj, formatS_toNat]
  simp only [BitVec.toNat_ofNat]
  omega

theorem encodeRequest_eccr_ofNat {n : Nat} (h : n ≤ 4194303) :
    encodeRequest (.eccr (BitVec.ofNat 22 n)) = BitVec.ofNat 24 (0x400000 + n) := by
  rw [encodeRequest, ← BitVec.toNat_inj, formatX_toNat]
  simp only [BitVec.toNat_ofNat]
  omega

theorem encodeRequest_freer_ofNat {n : Nat} (h : n ≤ 4194303) :
    encodeRequest (.freer (BitVec.ofNat 22 n)) = BitVec.ofNat 24 (0x800000 + n) := by
  rw [encodeRequest, ← BitVec.toNat_inj, formatX_toNat]
  simp only [BitVec.toNat_ofNat]
  omega

theorem encodeRequest_ldcfg_ofNat (v : EccVariant) (l : LayoutCode) {n : Nat} (h : n ≤ 65535) :
    encodeRequest (.ldcfg v l (BitVec.ofNat 16 n)) =
      BitVec.ofNat 24 (0xC00000 + (variantBits v).toNat * 0x40000 + (layoutBits l).toNat * 0x10000 + n) := by
  have hv := (variantBits v).isLt
  have hl := (layoutBits l).isLt
  rw [encodeRequest, ← BitVec.toNat_inj, formatC_toNat]
  simp only [BitVec.toNat_ofNat]
  omega

/-- A line that assembles, up to a bound on its number, to the word an operation is written as: it assembles to that word
as a number, and the decoder reads the operation back (R38). -/
theorem assemble_and_decodeRequest {line : AsmLine} {r : Request} {q : Req} {n bound : Nat}
    (hline : assemble line = if n ≤ bound then some (.request (encodeRequest r)) else none)
    (hword : n ≤ bound → encodeRequest r = q) :
    assemble line = (if n ≤ bound then some (.request q) else none) ∧ (n ≤ bound → decodeRequest q = r) := by
  by_cases hn : n ≤ bound
  · rw [hline, if_pos hn, if_pos hn, ← hword hn]
    exact ⟨rfl, fun _ => decodeRequest_encodeRequest r⟩
  · rw [hline, if_neg hn, if_neg hn]
    exact ⟨rfl, fun h => absurd h hn⟩

theorem assemble_dec (n : Nat) :
    assemble (.dec n) =
      if n ≤ 255 then some (.request (encodeRequest (.dec (BitVec.ofNat 8 n)))) else none := by
  simp only [assemble, AsmLine.wellFormed, decide_eq_true_eq]

theorem assemble_eccr (n : Nat) :
    assemble (.eccr n) =
      if n ≤ 4194303 then some (.request (encodeRequest (.eccr (BitVec.ofNat 22 n)))) else none := by
  simp only [assemble, AsmLine.wellFormed, decide_eq_true_eq]

theorem assemble_freer (n : Nat) :
    assemble (.freer n) =
      if n ≤ 4194303 then some (.request (encodeRequest (.freer (BitVec.ofNat 22 n)))) else none := by
  simp only [assemble, AsmLine.wellFormed, decide_eq_true_eq]

theorem assemble_ldcfg (v : EccVariant) (l : LayoutCode) (n : Nat) :
    assemble (.ldcfg v l n) =
      if n ≤ 65535 then some (.request (encodeRequest (.ldcfg v l (BitVec.ofNat 16 n)))) else none := by
  simp only [assemble, AsmLine.wellFormed, decide_eq_true_eq]

/-! ## The fields and the reading of a response word -/

@[simp] theorem rspUnc_responseWord (r : Response) : rspUnc (responseWord r) = uncFlag r :=
  rspUnc_packResponse _ _ _ _

@[simp] theorem rspA_responseWord (r : Response) : rspA (responseWord r) = payloadA r :=
  rspA_packResponse _ _ _ _

@[simp] theorem rspB_responseWord (r : Response) : rspB (responseWord r) = payloadB r :=
  rspB_packResponse _ _ _ _

/-- The result code and the payloads of a result tell it from every other (R35). -/
theorem resultOfFields_of_response (r : Response) :
    resultOfFields (resultCode r) (payloadA r) (payloadB r) = r := by
  cases r with
  | ecc e =>
    cases e with
    | corrected band => cases band <;> rfl
    | _ => rfl
  | range x =>
    cases x with
    | ok r => rfl
    | error e => cases e; rfl
  | cfg x => cases x <;> rfl

/-- A word reads as a result exactly when it is the word of that result (R34, R35). -/
theorem readResponse_eq_some_iff {w : Rsp} {r : Response} : readResponse w = some r ↔ responseWord r = w := by
  constructor
  · intro h
    rw [readResponse] at h
    split at h
    · next hw =>
      cases h
      exact hw
    · cases h
  · rintro rfl
    simp only [readResponse, rspRc_responseWord, rspA_responseWord, rspB_responseWord, resultOfFields_of_response,
      if_true]

/-- `UNC` is set with the codes 2 and 3 alone (R34, R46). -/
theorem uncFlag_eq_one_iff (r : Response) : uncFlag r = 1#1 ↔ resultCode r = 2#3 ∨ resultCode r = 3#3 := by
  cases r with
  | ecc e => cases e <;> simp [uncFlag, resultCode]
  | range x =>
    cases x with
    | ok r => simp [uncFlag, resultCode]
    | error e => cases e; simp [uncFlag, resultCode]
  | cfg x => cases x <;> simp [uncFlag, resultCode]

/-- The codes of the decoder's results (R35). -/
theorem resultCode_ecc_le (e : EccResult) : (resultCode (.ecc e)).toNat ≤ 3 := by
  cases e <;> simp [resultCode]

/-- The codes of the mapper's results (R35). -/
theorem resultCode_range_cases (x : RangeResult) :
    (resultCode (.range x)).toNat = 4 ∨ (resultCode (.range x)).toNat = 5 := by
  cases x with
  | ok r => exact .inl rfl
  | error e => exact .inr (by cases e; rfl)

/-- The codes of `LDCFG`'s results (R35). -/
theorem resultCode_cfg_cases (x : CfgResult) :
    (resultCode (.cfg x)).toNat = 6 ∨ (resultCode (.cfg x)).toNat = 7 := by
  cases x with
  | accepted => exact .inl rfl
  | ignored => exact .inr rfl

/-! ## A step on any event -/

/-- Whatever the host's next event, a step answers a next state and takes that event alone (R36, R80). -/
theorem exists_step_of_cons {s : State} {e : HostEvent} {rest : List HostEvent} (h : s.pending = e :: rest) :
    ∃ t, step s = .next t ∧ t.pending = rest := by
  cases e with
  | reset => exact ⟨_, step_reset h, rfl⟩
  | request q => exact ⟨_, step_eq_afterRequest h, rfl⟩

end Sys2Proof.Machine
end

section
/-! PROOF. The statements of spec/30_encoding.md's family: decode and encode, the reserved bits, the assembler's lines, the
response words, and runs that never stop. -/

namespace Sys2Proof.Machine

/-! ## Decode and encode -/

/-- Settles O23: the decoder reads back the operation, and a well-formed instruction is the row `CFG` selects for it. -/
theorem decodeOfEncodeIsIdentity : Obligations.DecodeOfEncodeIsIdentity := by
  intro c i hwf
  rw [decode, encode, decodeRequest_encodeRequest]
  exact wellFormed_iff_selectRow_request.1 hwf

/-- Settles O22, by the four operations, the modes and the fields written on numbers. -/
theorem decodeByOpThenMode : Obligations.DecodeByOpThenMode := by
  intro c q
  rcases reqOp_cases q with h | h | h | h <;> simp only [h]
  · rw [decode_of_op_zero c h, reqStatus_eq_ofNat, variant_eq_ite]
    split_ifs <;> rfl
  · rw [decode_of_op_one c h, reqIndex_eq_ofNat, layout_eq_ite]
    split_ifs <;> rfl
  · rw [decode_of_op_two c h, reqIndex_eq_ofNat, layout_eq_ite]
    split_ifs <;> rfl
  · rw [decode_of_op_three c h, variantOfBits_reqEccv, layoutOfBits_reqLayout, reqOobsz_eq_ofNat]

/-- Settles O24: the selected row keeps the operation, so it is well-formed, and encoding it writes what the word was read
as. -/
theorem encodeOfDecodeClearsReservedBits : Obligations.EncodeOfDecodeClearsReservedBits := by
  intro c q
  refine ⟨?_, ?_⟩
  · rw [wellFormed_iff_selectRow_request, decode, request_selectRow]
  · rw [encode, decode, request_selectRow, encodeRequest_decodeRequest]

/-- Settles O25: a step runs the decoded instruction, and the decoder does not read the reserved bits. -/
theorem reservedBitsHaveNoInfluence : Obligations.ReservedBitsHaveNoInfluence := by
  intro s
  refine ⟨fun x y status => ?_, fun x y operand => ?_⟩
  · have hx := x.isLt
    have hy := y.isLt
    have hs := status.isLt
    have hdecode : decode s.cfg (0#2 ++ x ++ status) = decode s.cfg (0#2 ++ y ++ status) := by
      apply decode_congr_of_op_zero <;> simp only [formatS_toNat, BitVec.toNat_ofNat] <;> omega
    rw [step_issueFirst, step_issueFirst, hdecode]
  · have hx := x.isLt
    have hy := y.isLt
    have ho := operand.isLt
    have hdecode : decode s.cfg (3#2 ++ x ++ operand) = decode s.cfg (3#2 ++ y ++ operand) := by
      apply decode_congr_of_op_three <;> simp only [toNat_append_add, BitVec.toNat_ofNat] <;> omega
    rw [step_issueFirst, step_issueFirst, hdecode]

/-- Settles O29: each line's bound is that of its field, so its word is the operation's code plus its fields. -/
theorem assembledLinesDecodeToTheirNumbers : Obligations.AssembledLinesDecodeToTheirNumbers := by
  refine ⟨fun n => ?_, ?_, rfl⟩
  · obtain ⟨hdec, hdec'⟩ := assemble_and_decodeRequest (assemble_dec n) encodeRequest_dec_ofNat
    obtain ⟨heccr, heccr'⟩ := assemble_and_decodeRequest (assemble_eccr n) encodeRequest_eccr_ofNat
    obtain ⟨hfreer, hfreer'⟩ := assemble_and_decodeRequest (assemble_freer n) encodeRequest_freer_ofNat
    exact ⟨hdec, heccr, hfreer, hdec', heccr', hfreer'⟩
  · intro v l n word
    have hword : BitVec.ofNat 24
        (0xC00000 + (variantBits v).toNat * 0x40000 + (layoutBits l).toNat * 0x10000 + n) = word := by
      cases v <;> cases l <;> rfl
    exact assemble_and_decodeRequest (assemble_ldcfg v l n) fun h => (encodeRequest_ldcfg_ofNat v l h).trans hword

/-- Settles O26, by decoding the ten words. -/
theorem writtenWordsDecode : Obligations.WrittenWordsDecode :=
  ⟨rfl, rfl, rfl, rfl, rfl, rfl, rfl, rfl, rfl, rfl⟩

/-! ## Response words -/

/-- Settles O28: reading is exactly being the word of. -/
theorem responseWordsReadBack : Obligations.ResponseWordsReadBack :=
  ⟨fun _ => readResponse_eq_some_iff.2 rfl, fun _ _ => readResponse_eq_some_iff.1⟩

/-- Settles O30: the answer is the word of a row's result, and `UNC` is told by that result's code. -/
theorem everyAnswerIsLegal : Obligations.EveryAnswerIsLegal := by
  intro s q w h
  rw [answers_iff.1 h, rspUnc_responseWord, rspRc_responseWord]
  exact ⟨legalResponse_rowResponse _ _, uncFlag_eq_one_iff _⟩

/-- Settles O31: each operation answers results of its own kind alone. -/
theorem resultCodesByOperation : Obligations.ResultCodesByOperation := by
  intro s q w h
  rw [answers_iff.1 h, rspRc_responseWord]
  refine ⟨fun hop => ?_, fun hop => ?_, fun hop => ?_⟩
  · obtain ⟨e, he⟩ := rowResponse_dec s.cfg (reqStatus q)
    rw [selectRow, ← decode_of_op_zero s.cfg hop] at he
    rw [he]
    exact resultCode_ecc_le e
  · have hmapper := decodeRequest_mem_mapper (q := q) (by omega) (by omega)
    obtain ⟨r, hr⟩ := rowResponse_mapper_eq_checkIndex s.cfg hmapper
    rw [decode, hr]
    exact resultCode_range_cases _
  · rw [decode_of_op_three s.cfg hop]
    exact resultCode_cfg_cases _

/-! ## Runs -/

/-- Settles O17, by induction on the number of steps: a step takes the next event, and does nothing when there is none. -/
theorem runNeverStops : Obligations.RunNeverStops := by
  intro k
  induction k with
  | zero =>
    intro s
    refine ⟨s, rfl, rfl, fun hlen => ?_⟩
    rw [Nat.le_zero.1 hlen]
    rfl
  | succ k ih =>
    intro s
    cases hp : s.pending with
    | nil =>
      obtain ⟨t, hrun, hpending, hdone⟩ := ih s
      rw [hp] at hpending hdone
      refine ⟨t, (run_succ_of_step (step_idle hp) k).trans hrun, ?_, fun _ => hdone (Nat.zero_le k)⟩
      rw [hpending, List.drop_nil, List.drop_nil]
    | cons e rest =>
      obtain ⟨u, hstep, hu⟩ := exists_step_of_cons hp
      obtain ⟨t, hrun, hpending, hdone⟩ := ih u
      rw [hu] at hpending hdone
      refine ⟨t, (run_succ_of_step hstep k).trans hrun, hpending, fun hlen => ?_⟩
      exact (run_succ_of_step hstep rest.length).trans (hdone (Nat.le_of_succ_le_succ hlen))

end Sys2Proof.Machine
end

section
/-! PROOF. What the statements of spec/40_ecc_decode.md's family share: the variants as conditions on `CFG`, the row of a
`DEC` word, and the two tables asked with the status byte shifted and masked as the rules' pseudocode writes it. -/

namespace Sys2Proof.Machine

/-! ## The variants -/

/-- Variant A on numbers: configured, `ECCV` clear (R18). -/
theorem variant_eq_a_iff {c : Cfg} : variant c = .a ↔ 0x80000 ≤ c.toNat ∧ c.toNat / 2 ^ 18 % 2 = 0 := by
  rw [variant_eq_ite]
  split_ifs <;> simp only [false_iff, true_iff] <;> omega

/-- Variant B on numbers: configured, `ECCV` set (R18). -/
theorem variant_eq_b_iff {c : Cfg} : variant c = .b ↔ 0x80000 ≤ c.toNat ∧ c.toNat / 2 ^ 18 % 2 = 1 := by
  rw [variant_eq_ite]
  split_ifs <;> simp only [false_iff, true_iff] <;> omega

/-- Before configuration `DEC` has no variant, whatever the other bits of `CFG` (R18). -/
theorem variant_of_unconfigured {c : Cfg} (h : c.toNat < 0x80000) : variant c = .u := by
  rw [variant_eq_ite, if_pos (by omega)]

/-- Before configuration the mapper has no regions, whatever the other bits of `CFG` (R18). -/
theorem layout_of_unconfigured {c : Cfg} (h : c.toNat < 0x80000) : layout c = .z := by
  rw [layout_eq_ite, if_pos (.inl (by omega))]

/-- Under `VALID = 1` the bit `ECCV` chooses the variant (R18). -/
theorem variant_configured (eccv : BitVec 1) (rest : BitVec 18) :
    variant (1#1 ++ eccv ++ rest) = if eccv = 0#1 then .a else .b := by
  have heccv := eccv.isLt
  have hrest := rest.isLt
  have hcfg : (1#1 ++ eccv ++ rest : Cfg).toNat = (1 * 2 + eccv.toNat) * 2 ^ 18 + rest.toNat := by
    rw [toNat_append_add, toNat_append_add]
    rfl
  split_ifs with h
  · subst h
    exact variant_eq_a_iff.2 (by rw [hcfg, BitVec.toNat_ofNat]; omega)
  · rw [← BitVec.toNat_inj, BitVec.toNat_ofNat] at h
    exact variant_eq_b_iff.2 (by rw [hcfg]; omega)

/-! ## The row of a DEC word -/

/-- The decoder of a `DEC` word reads neither its reserved bits nor more of `CFG` than the variant (R33, R36, R40). -/
theorem decode_dec_formatS (c : Cfg) (x : BitVec 14) (status : Status) :
    decode c (0#2 ++ x ++ status) = selectDec (variant c) status := by
  rw [decode, decodeRequest, Laws.EncodedOp.reqOp_formatS, reqStatus_formatS]
  rfl

/-- A row that writes no `CFG` answers its word and changes nothing else (R10, R34). -/
theorem exec_eq_of_word {i : Instr} {s : State} {w : Rsp} (hcfg : rowCfg s.cfg i = s.cfg)
    (hw : responseWord (rowResponse s.cfg i) = w) :
    exec i s = .next { s with responses := s.responses ++ [w] } := by
  rw [exec_eq, hcfg, hw]
  rfl

/-- `DEC.U` answers R35's `UNRECOGNIZED` whatever the byte (R43). -/
theorem responseWord_decU (c : Cfg) (status : Status) :
    responseWord (rowResponse c (.decU status)) = 0x700000000#36 := by
  rw [rowResponse]
  rfl

/-! ## The tables on the status byte -/

/-- Widening a pattern to a byte keeps different patterns different. -/
theorem setWidth_eq_setWidth_iff {m n : Nat} (h : m ≤ n) {p q : BitVec m} :
    p.setWidth n = q.setWidth n ↔ p = q := by
  rw [← BitVec.toNat_inj, BitVec.toNat_setWidth_of_le h, BitVec.toNat_setWidth_of_le h, BitVec.toNat_inj]

/-- `(STATUS >> 4) & 0b111` is Variant A's pattern (R41). -/
theorem shiftRight_and_eq_patternA (status : Status) : (status >>> 4) &&& 0b111#8 = (patternA status).setWidth 8 := by
  rw [← BitVec.toNat_inj, BitVec.toNat_setWidth_of_le (by decide), patternA_toNat, BitVec.toNat_and,
    BitVec.toNat_ushiftRight, Nat.shiftRight_eq_div_pow]
  exact Nat.and_two_pow_sub_one_eq_mod _ 3

/-- `STATUS >> 4` is Variant B's pattern (R42). -/
theorem shiftRight_eq_patternB (status : Status) : status >>> 4 = (patternB status).setWidth 8 := by
  rw [← BitVec.toNat_inj, BitVec.toNat_setWidth_of_le (by decide), patternB_toNat, BitVec.toNat_ushiftRight,
    Nat.shiftRight_eq_div_pow]

/-- The word of Variant A's table, its tests written on bytes in the order of R41 (R35, R41). -/
theorem responseWord_tableA_eq_ite {k : VariantAParams} (hk : k.wellFormed = true) (p : BitVec 3) :
    responseWord (.ecc (tableA k p)) =
      if p.setWidth 8 = (0b000#3).setWidth 8 then 0x000000000#36
      else if p.setWidth 8 = k.pa3.setWidth 8 then 0x200000003#36
      else if p.setWidth 8 = (0b010#3).setWidth 8 then 0x500000000#36
      else if p.setWidth 8 = k.pa6.setWidth 8 then 0x200000006#36
      else if p.setWidth 8 = (0b101#3).setWidth 8 then 0x200000008#36
      else 0x700000000#36 := by
  simp only [tableA_eq_spec_order hk, setWidth_eq_setWidth_iff (show 3 ≤ 8 by decide)]
  split_ifs <;> rfl

/-- The word of Variant B's table, its tests written on bytes (R35, R42). -/
theorem responseWord_tableB_eq_ite (k : VariantBParams) (p : BitVec 4) :
    responseWord (.ecc (tableB k p)) =
      if p.setWidth 8 = k.pbClean.setWidth 8 then 0x000000000#36
      else if p.setWidth 8 = k.pbUnc.setWidth 8 then 0x500000000#36
      else if p.setWidth 8 = k.pb3.setWidth 8 then 0x200000003#36
      else if p.setWidth 8 = k.pb6.setWidth 8 then 0x200000006#36
      else if p.setWidth 8 = k.pb8.setWidth 8 then 0x200000008#36
      else 0x700000000#36 := by
  simp only [tableB, setWidth_eq_setWidth_iff (show 4 ≤ 8 by decide)]
  split_ifs <;> rfl

/-- Variant A's table answers clean for one pattern alone (R41). -/
theorem tableA_eq_clean_iff (k : VariantAParams) (p : BitVec 3) : tableA k p = .clean ↔ p = 0b000#3 := by
  rw [tableA]
  split_ifs with h <;> simp [h]

/-- `DEC` is answered clean exactly for the clean pattern of the variant that `CFG` selects (R40 to R43). -/
theorem answers_dec_clean_iff {s : State} {status : Status} :
    Answers s (encodeRequest (.dec status)) (responseWord (.ecc .clean)) ↔
      (variant s.cfg = .a ∧ patternA status = 0b000#3) ∨
      (variant s.cfg = .b ∧ patternB status = paramsB.pbClean) := by
  cases hv : variant s.cfg with
  | a =>
    rw [answers_dec_of_variant_a hv, eq_comm, responseWord_ecc_eq_clean_iff, tableA_eq_clean_iff]
    simp
  | b =>
    rw [answers_dec_of_variant_b hv, eq_comm, responseWord_ecc_eq_clean_iff, tableB_eq_clean_iff]
    simp
  | u =>
    rw [answers_encodeRequest_iff, selectRow, hv, selectDec, rowResponse, eq_comm, responseWord_ecc_eq_clean_iff]
    simp

end Sys2Proof.Machine
end

section
/-! PROOF. The statements of spec/40_ecc_decode.md's family: the three rows of `DEC`, the answers before configuration, and
when a status byte is clean. -/

namespace Sys2Proof.Machine

/-! ## The rows of DEC -/

/-- Settles O1: `ECCV = 0` selects Variant A, and its table answers as R41's tests do for the block's well-formed
parameters. -/
theorem decAAnswersByVariantATable : Obligations.DecAAnswersByVariantATable := by
  refine ⟨fun rest x status => ?_, fun status s => ?_⟩
  · rw [decode_dec_formatS, variant_configured]
    rfl
  · rw [shiftRight_and_eq_patternA]
    exact exec_eq_of_word rfl (responseWord_tableA_eq_ite paramsA_wellFormed _)

/-- Settles O2: `ECCV = 1` selects Variant B, and its table asks R42's tests. -/
theorem decBAnswersByVariantBTable : Obligations.DecBAnswersByVariantBTable := by
  refine ⟨fun rest x status => ?_, fun status s => ?_⟩
  · rw [decode_dec_formatS, variant_configured]
    rfl
  · rw [shiftRight_eq_patternB]
    exact exec_eq_of_word rfl (responseWord_tableB_eq_ite _ _)

/-- Settles O3: `VALID = 0` selects the empty table, and its row answers one word whatever the byte. -/
theorem decUAnswersUnrecognized : Obligations.DecUAnswersUnrecognized := by
  refine ⟨fun rest x status => ?_, fun status s => exec_eq_of_word rfl (responseWord_decU s.cfg status)⟩
  have hrest := rest.isLt
  rw [decode_dec_formatS, variant_of_unconfigured (by rw [toNat_append_add, BitVec.toNat_ofNat]; omega)]
  rfl

/-! ## Before configuration -/

/-- Settles O36: without `VALID` there is no variant, and the layout has no regions, so that no index passes the mapper's
check. -/
theorem unconfiguredAnswersFirst : Obligations.UnconfiguredAnswersFirst := by
  intro s q hcfg
  refine ⟨fun hq => ?_, fun hlo hhi => ?_⟩
  · rw [answers_iff, decode_of_op_zero s.cfg (by omega), variant_of_unconfigured hcfg]
    exact (responseWord_decU s.cfg _).symm
  · obtain ⟨x, hx⟩ := rowResponse_mapper_eq_checkIndex s.cfg (decodeRequest_mem_mapper hlo hhi)
    rw [answers_iff, decode, hx, layout_of_unconfigured hcfg, outOfRange_eq_responseWord_iff]
    exact checkIndex_of_le (Nat.zero_le _) x

/-! ## Clean -/

/-- Settles O37, by writing the variants and the patterns on numbers. -/
theorem cleanOnlyForTheCleanPattern : Obligations.CleanOnlyForTheCleanPattern := by
  intro s status
  refine answers_dec_clean_iff.trans ?_
  rw [variant_eq_a_iff, variant_eq_b_iff, ← BitVec.toNat_inj, ← BitVec.toNat_inj, patternA_toNat, patternB_toNat,
    BitVec.toNat_ofNat, and_assoc, and_assoc]

end Sys2Proof.Machine
end

section
/-! PROOF. What the statements of spec/41_oob_map.md's family share: the layout a configured `CFG` selects, the row of an
`ECCR` or `FREER` word, and the words of the mapper's rows with `OUT_OF_RANGE` in the other branch. -/

namespace Sys2Proof.Machine

/-! ## The layout -/

/-- The layout a code of `CFG.LAYOUT` stands for in a configured block; the reserved code 3 has no regions (R18). -/
def layoutOfCode (code : BitVec 2) : Layout :=
  if code = 0#2 then .l4 else if code = 1#2 then .l1f else if code = 2#2 then .lp else .z

/-- Under `VALID = 1` the field `LAYOUT` alone chooses the layout (R18). -/
theorem layout_configured (v : BitVec 1) (code : BitVec 2) (o : Offset) :
    layout (1#1 ++ v ++ code ++ o) = layoutOfCode code := by
  change layout (cfgOfFields 1#1 v code o) = _
  rw [layout, if_pos ((cfgValid_cfgOfFields 1#1 v code o).2 rfl), cfgLayout_cfgOfFields]
  rfl

/-- Under `VALID = 0` there are no regions, whatever the other bits of `CFG` (R18). -/
theorem layout_valid_zero (rest : BitVec 19) : layout (0#1 ++ rest) = .z := by
  have hrest := rest.isLt
  exact layout_of_unconfigured (by rw [toNat_append_add, BitVec.toNat_ofNat]; omega)

/-! ## The row of a mapper word -/

/-- The decoder of an `ECCR` word reads its index and no more of `CFG` than the layout (R33, R50). -/
theorem decode_eccr_formatX (c : Cfg) (index : Index) : decode c (1#2 ++ index) = selectEccr (layout c) index :=
  congrArg (selectRow c) (decodeRequest_encodeRequest (.eccr index))

/-- The decoder of a `FREER` word reads its index and no more of `CFG` than the layout (R33, R50). -/
theorem decode_freer_formatX (c : Cfg) (index : Index) : decode c (2#2 ++ index) = selectFreer (layout c) index :=
  congrArg (selectRow c) (decodeRequest_encodeRequest (.freer index))

/-- The row of an `ECCR` word in a configured block (R50). -/
theorem decode_eccr_configured (v : BitVec 1) (code : BitVec 2) (o : Offset) (index : Index) :
    decode (1#1 ++ v ++ code ++ o) (1#2 ++ index) = selectEccr (layoutOfCode code) index := by
  rw [decode_eccr_formatX, layout_configured]

/-- The row of a `FREER` word in a configured block (R50). -/
theorem decode_freer_configured (v : BitVec 1) (code : BitVec 2) (o : Offset) (index : Index) :
    decode (1#1 ++ v ++ code ++ o) (2#2 ++ index) = selectFreer (layoutOfCode code) index := by
  rw [decode_freer_formatX, layout_configured]

/-! ## The words of the mapper's rows -/

/-- A response word from its number, where the other number is that of `OUT_OF_RANGE` (R35). -/
theorem eq_ite_outOfRange_of_toNat {p : Prop} [Decidable p] {w : Rsp} {n : Nat}
    (h : w.toNat = if p then n else 0xA00000000) : w = if p then BitVec.ofNat 36 n else 0xA00000000#36 := by
  split_ifs at h ⊢
  · rw [← h, BitVec.ofNat_toNat, BitVec.setWidth_eq]
  · exact BitVec.eq_of_toNat_eq h

/-- The same for a layout with one region, the index compared with 0 as a word (R53 to R56). -/
theorem eq_ite_index_zero_of_toNat {index : Index} {w : Rsp} {n : Nat}
    (h : w.toNat = if index.toNat = 0 then n else 0xA00000000) :
    w = if index = 0#22 then BitVec.ofNat 36 n else 0xA00000000#36 := by
  simp only [← BitVec.toNat_inj (y := 0#22)]
  exact eq_ite_outOfRange_of_toNat h

end Sys2Proof.Machine
end

section
/-! PROOF. The statements of spec/41_oob_map.md's family: the eight rows of `ECCR` and `FREER`. -/

namespace Sys2Proof.Machine

/-! ## Layout L4 -/

/-- Settles O4: `LAYOUT = 0` selects L4, whose ECC range does not wrap for an index that passes the check. -/
theorem eccrL4AnswersFixedRegion : Obligations.EccrL4AnswersFixedRegion :=
  ⟨fun v o index => decode_eccr_configured v 0#2 o index,
    fun index s => exec_eq_of_word rfl (eq_ite_outOfRange_of_toNat (responseWord_eccrL4_toNat s.cfg index))⟩

/-- Settles O5: `LAYOUT = 0` selects L4, whose free range does not wrap for an index that passes the check. -/
theorem freerL4AnswersFixedRegion : Obligations.FreerL4AnswersFixedRegion :=
  ⟨fun v o index => decode_freer_configured v 0#2 o index,
    fun index s => exec_eq_of_word rfl (eq_ite_outOfRange_of_toNat (responseWord_freerL4_toNat s.cfg index))⟩

/-! ## Layout L1F -/

/-- Settles O6: `LAYOUT = 1` selects L1F, whose one ECC range is fixed. -/
theorem eccrL1FAnswersFixedSplit : Obligations.EccrL1FAnswersFixedSplit :=
  ⟨fun v o index => decode_eccr_configured v 1#2 o index,
    fun index s => exec_eq_of_word rfl (eq_ite_index_zero_of_toNat (responseWord_eccrL1F_toNat s.cfg index))⟩

/-- Settles O7: `LAYOUT = 1` selects L1F, whose one free range is fixed. -/
theorem freerL1FAnswersFixedSplit : Obligations.FreerL1FAnswersFixedSplit :=
  ⟨fun v o index => decode_freer_configured v 1#2 o index,
    fun index s => exec_eq_of_word rfl (eq_ite_index_zero_of_toNat (responseWord_freerL1F_toNat s.cfg index))⟩

/-! ## Layout LP -/

/-- Settles O8: `LAYOUT = 2` selects LP, whose ECC range is computed from the low 16 bits of `CFG`. -/
theorem eccrLPAnswersUpperHalf : Obligations.EccrLPAnswersUpperHalf :=
  ⟨fun v o index => decode_eccr_configured v 2#2 o index,
    fun index s => exec_eq_of_word rfl (eq_ite_index_zero_of_toNat (responseWord_eccrLP_toNat s.cfg index))⟩

/-- Settles O9: `LAYOUT = 2` selects LP, whose free range ends at half of the low 16 bits of `CFG`, with no check between
its ends. -/
theorem freerLPAnswersLowerHalf : Obligations.FreerLPAnswersLowerHalf :=
  ⟨fun v o index => decode_freer_configured v 2#2 o index,
    fun index s => exec_eq_of_word rfl (eq_ite_index_zero_of_toNat (responseWord_freerLP_toNat s.cfg index))⟩

/-! ## Layout Z -/

/-- Settles O10: `VALID = 0` and the reserved code 3 both select the layout without regions, whose rows ask nothing. -/
theorem layoutZAnswersOutOfRange : Obligations.LayoutZAnswersOutOfRange := by
  refine ⟨fun rest v o index => ⟨?_, ?_, ?_, ?_⟩, fun index s => ⟨?_, ?_⟩⟩
  · rw [decode_eccr_formatX, layout_valid_zero]
    rfl
  · rw [decode_freer_formatX, layout_valid_zero]
    rfl
  · exact decode_eccr_configured v 3#2 o index
  · exact decode_freer_configured v 3#2 o index
  · exact exec_eq_of_word rfl (BitVec.eq_of_toNat_eq (responseWord_eccrZ_toNat s.cfg index))
  · exact exec_eq_of_word rfl (BitVec.eq_of_toNat_eq (responseWord_freerZ_toNat s.cfg index))

end Sys2Proof.Machine
end

section
/-! PROOF. What the statements of spec/42_config.md's family share: the two outcomes of `LDCFG`, the `CFG` it stores written
as R65 computes it, and what a configured block keeps in one step. -/

namespace Sys2Proof.Machine

/-! ## The two outcomes of LDCFG -/

/-- A configured block ignores `LDCFG`: it answers `CFG_IGNORED` and changes nothing else (R66). -/
theorem exec_ldcfg_of_configured {s : State} (h : cfgValid s.cfg = true) (v : EccVariant) (l : LayoutCode)
    (size : Offset) : exec (.ldcfg v l size) s = .next (s.withResponse 0xE00000000#36) := by
  rw [exec_eq, rowCfg, rowResponse, if_pos h, if_pos h]
  rfl

/-- An unconfigured block stores the operand of `LDCFG` under `VALID = 1` and answers `CFG_ACCEPTED` (R65, R67). -/
theorem exec_ldcfg_of_unconfigured {s : State} (h : ¬ cfgValid s.cfg = true) (v : EccVariant) (l : LayoutCode)
    (size : Offset) :
    exec (.ldcfg v l size) s =
      .next ((s.withCfg (cfgOfFields 1#1 (variantBits v) (layoutBits l) size)).withResponse 0xC00000000#36) := by
  rw [exec_eq, rowCfg, rowResponse, if_neg h, if_neg h]
  rfl

/-! ## The CFG that is stored -/

/-- A configured `CFG` as the sum of its fields, each at its place (R11). -/
theorem cfgOfFields_valid_eq_ofNat (eccv : BitVec 1) (code : BitVec 2) (o : Offset) :
    cfgOfFields 1#1 eccv code o =
      BitVec.ofNat 20 (0x80000 + eccv.toNat * 0x40000 + code.toNat * 0x10000 + o.toNat) := by
  have heccv := eccv.isLt
  have hcode := code.isLt
  have ho := o.isLt
  rw [← BitVec.toNat_inj, cfgOfFields_toNat]
  simp only [BitVec.toNat_ofNat]
  omega

/-- The expression of R65's pseudocode, `0x80000 | (REQ & 0x7FFFF)`, on numbers. -/
theorem valid_or_operand_toNat (x : BitVec 22) :
    (0x80000#20 ||| (x.setWidth 20 &&& 0x7FFFF#20)).toNat = 0x80000 + x.toNat % 2 ^ 19 := by
  have hand : (x.setWidth 20 &&& 0x7FFFF#20).toNat = x.toNat % 2 ^ 19 := by
    calc (x.setWidth 20 &&& 0x7FFFF#20).toNat
        = x.toNat % 2 ^ 20 &&& (2 ^ 19 - 1) := by
          rw [BitVec.toNat_and, BitVec.toNat_setWidth, BitVec.toNat_ofNat]
      _ = x.toNat % 2 ^ 20 % 2 ^ 19 := Nat.and_two_pow_sub_one_eq_mod _ 19
      _ = x.toNat % 2 ^ 19 := by omega
  rw [BitVec.toNat_or, hand]
  exact (Nat.two_pow_add_eq_or_of_lt (Nat.mod_lt x.toNat (Nat.two_pow_pos 19)) 1).symm

/-- The fields the decoder reads from an `LDCFG` word, put together under `VALID = 1`, are R65's expression: the reserved
bits [21:19] are not stored (R33, R36, R65). -/
theorem cfgOfFields_of_ldcfg_word (x : BitVec 22) :
    cfgOfFields 1#1 (reqEccv (3#2 ++ x)) (reqLayout (3#2 ++ x)) (reqOobsz (3#2 ++ x)) =
      0x80000#20 ||| (x.setWidth 20 &&& 0x7FFFF#20) := by
  rw [← BitVec.toNat_inj, cfgOfFields_of_req_toNat, valid_or_operand_toNat, toNat_append_add]
  omega

/-! ## What a configured block keeps -/

/-- No row writes a configured `CFG` (R10, R66). -/
theorem rowCfg_of_valid {c : Cfg} (h : cfgValid c = true) (i : Instr) : rowCfg c i = c := by
  cases i with
  | ldcfg v l size => exact if_pos h
  | _ => rfl

/-- A step of a configured block that is not on a `RESET` keeps `CFG` and takes the host's next event alone (R66, R80). -/
theorem step_keeps_configured {s t : State} (hvalid : cfgValid s.cfg = true)
    (hreset : ∀ rest, s.pending ≠ .reset :: rest) (hstep : step s = .next t) :
    t.cfg = s.cfg ∧ t.pending = s.pending.tail := by
  obtain ⟨hidle, rfl⟩ | ⟨rest, hpending, -⟩ | ⟨q, rest, hpending, rfl⟩ := step_cases hstep
  · exact ⟨rfl, by rw [hidle, List.tail_nil]⟩
  · exact absurd hpending (hreset rest)
  · exact ⟨rowCfg_of_valid hvalid _, by rw [hpending, afterRequest_pending, List.tail_cons]⟩

/-- A run of `k + 1` steps that answers a state is a step and a run of `k` steps. -/
theorem exists_step_of_run_succ {k : Nat} {s t : State} (h : Sys2Proof.core.run (k + 1) s = .next t) :
    ∃ u, step s = .next u ∧ Sys2Proof.core.run k u = .next t := by
  obtain ⟨u, hstep⟩ : ∃ u, step s = .next u := by
    cases hpending : s.pending with
    | nil => exact ⟨s, step_idle hpending⟩
    | cons e rest =>
      obtain ⟨u, hstep, -⟩ := exists_step_of_cons hpending
      exact ⟨u, hstep⟩
  exact ⟨u, hstep, (run_succ_of_step hstep k).symm.trans h⟩

end Sys2Proof.Machine
end

section
/-! PROOF. The statements of spec/42_config.md's family: `LDCFG` on its operand and on its word, and `CFG` along a run. -/

namespace Sys2Proof.Machine

/-! ## Along a run -/

/-- Settles O18, by induction on the number of steps: a step that is not on a `RESET` keeps a configured `CFG`, and the
events of the rest of the run are the tail of those of the run. -/
theorem configImmutableAlongRuns : Obligations.ConfigImmutableAlongRuns := by
  intro k
  induction k with
  | zero =>
    intro s t _ _ hrun
    cases hrun
    rfl
  | succ k ih =>
    intro s t hvalid hevents hrun
    obtain ⟨u, hstep, hrest⟩ := exists_step_of_run_succ hrun
    have hreset : ∀ rest, s.pending ≠ .reset :: rest := fun rest hpending =>
      hevents .reset (by rw [hpending, List.take_succ_cons]; exact List.mem_cons_self) rfl
    obtain ⟨hcfg, hpending⟩ := step_keeps_configured hvalid hreset hstep
    have hlater : ∀ e ∈ u.pending.take k, e ≠ HostEvent.reset := fun e he =>
      hevents e (List.mem_of_mem_tail (by rwa [List.tail_take_eq_take_tail, Nat.add_sub_cancel, ← hpending]))
    exact (ih u t (by rwa [hcfg]) hlater hrest).trans hcfg

/-! ## LDCFG -/

/-- Settles O12: the step runs `LDCFG` of the word's fields, which put together are R65's expression. -/
theorem ldcfgWordStoresOperandOnce : Obligations.LdcfgWordStoresOperandOnce := by
  intro x s
  have hx := x.isLt
  have hop : (3#2 ++ x : Req).toNat / 2 ^ 22 = 3 := by
    rw [formatX_toNat, BitVec.toNat_ofNat]
    omega
  refine (step_issueFirst (3#2 ++ x) s).trans ?_
  rw [decode_of_op_three s.cfg hop]
  by_cases hcfg : s.cfg.toNat < 0x80000
  · have hvalid : ¬ cfgValid s.cfg = true := by
      rw [cfgValid_iff]
      omega
    rw [if_pos hcfg, exec_ldcfg_of_unconfigured hvalid, variantBits_variantOfBits, layoutBits_layoutOfBits,
      cfgOfFields_of_ldcfg_word]
    rfl
  · rw [if_neg hcfg, exec_ldcfg_of_configured ((cfgValid_iff s.cfg).2 (by omega))]
    rfl

/-- Settles O11, by the two values of `VALID`; the stored `CFG` is the sum of the codes of the operand's fields. -/
theorem ldcfgLoadsOnceThenIgnores : Obligations.LdcfgLoadsOnceThenIgnores := by
  intro v l size s
  by_cases hvalid : s.cfg.getLsbD 19 = true
  · rw [if_pos hvalid]
    exact exec_ldcfg_of_configured hvalid v l size
  · rw [if_neg hvalid, exec_ldcfg_of_unconfigured hvalid, cfgOfFields_valid_eq_ofNat]
    cases v <;> cases l <;> simp only [variantBits, layoutBits, BitVec.toNat_ofNat] <;> rfl

end Sys2Proof.Machine
end

section
/-! PROOF. The statement of spec/60_exceptions.md's family: an error answer changes nothing, and repeated it is the same. -/

namespace Sys2Proof.Machine

/-- No `LDCFG` word is answered with an error: its answers have the codes 6 and 7 (R73). -/
theorem req_lt_ldcfg_of_error_answer {s : State} {q : Req} {w : Rsp} (hw : Answers s q w)
    (herror : rspRc w = 2#3 ∨ rspRc w = 3#3 ∨ rspRc w = 5#3) : q.toNat < 0xC00000 := by
  have hq := q.isLt
  have hcode : (rspRc w).toNat ≤ 5 := by
    obtain h | h | h := herror <;> rw [h] <;> decide
  obtain ⟨-, -, hldcfg⟩ := resultCodesByOperation s q w hw
  by_contra hge
  have hrc := hldcfg (by omega)
  omega

/-- Settles O34: `LDCFG` answers no error, and the other operations leave `CFG` and answer the same when repeated. -/
theorem errorsLeaveNoTrace : Obligations.ErrorsLeaveNoTrace := by
  intro s t q w hstep hresponses herror
  have hw : Answers s q w := ⟨t, hstep, hresponses⟩
  have hq := req_lt_ldcfg_of_error_answer hw herror
  obtain ⟨hcfg, -⟩ := pureOperationsLeaveCfg s t q s.pending hq hstep
  obtain ⟨hrepeat, -⟩ := repeatedRequests s t q w hw hstep
  exact ⟨hcfg, hrepeat hq⟩

end Sys2Proof.Machine
end

section
/-! PROOF. The statement of spec/70_reset_and_hazards.md's family: what `RESET` does, and that nothing else unconfigures. -/

namespace Sys2Proof.Machine

/-- Settles O14: the first clause is the step's equation for a `RESET`; the second holds because a step of a configured
block on anything else keeps `CFG`, and `VALID` with it. -/
theorem resetClearsCfgAndAloneUnconfigures : Obligations.ResetClearsCfgAndAloneUnconfigures := by
  refine ⟨fun s rest => step_reset rfl, fun s t hstep hvalid hinvalid => ?_⟩
  by_contra hreset
  obtain ⟨hcfg, -⟩ := step_keeps_configured hvalid (not_exists.1 hreset) hstep
  rw [hcfg, hvalid] at hinvalid
  cases hinvalid

end Sys2Proof.Machine
end
